-- ==== Sys2Proof/Word.lean ====
section
/-! DEFINITION. The word and byte types of PE-KDC and the plainest readings of a word (00_scope R7 to R10). -/

namespace Sys2Proof

/-- `WORD_BITS` = 32: the width of every register, of the bus data and of every SHA-256 word (00_scope R7). -/
abbrev Word := BitVec 32

/-- One message byte. -/
abbrev Byte := BitVec 8

/-- A block: the 64-byte unit that the compression function consumes (00_scope R7 `BLOCK_BYTES`). -/
abbrev Block := Vector Byte 64

/-- Eight 32-bit words: the shape of H, SEED and DIGEST (10_state R26, R31). -/
abbrev Words8 := Vector Word 8

/-- `toUInt32(v)`: the pattern read as an unsigned number (00_scope R9). -/
def toUInt32 (v : Word) : Nat := v.toNat

/-- `toInt32(v)`: the pattern read as a two's-complement number (00_scope R9). -/
def toInt32 (v : Word) : Int := if v.msb then (v.toNat : Int) - 2 ^ 32 else v.toNat

end Sys2Proof
end

