-- ==== Sys2Proof/Config.lean ====
section
/-! DEFINITION. What PE-KDC version 1 fixes (00_scope R7) and the free values that its spec leaves open (00_scope R16).
The OPEN parameters of R7 stand elsewhere: BASE is `State.window` and COMPRESS_LATENCY is `State.schedule` (log 4 and
log 2); BUS_ILLEGAL_ACCESS is a refusal (20_memory R52). -/

namespace Sys2Proof.Config

/-- `WINDOW_BYTES` = 0x80 bytes of register space (00_scope R7). -/
def windowBytes : Nat := 0x80

/-- `BLOCK_BYTES` = 64 (00_scope R7). -/
def blockBytes : Nat := 64

/-- `ROUNDS` = 64 SHA-256 rounds per block (00_scope R7). -/
def rounds : Nat := 64

/-- `MAX_MSG_BYTES` = 2^61 - 1 (00_scope R7, 92 D14). -/
def maxMsgBytes : Nat := 2 ^ 61 - 1

/-- `ABSORB_MAX` = 4 bytes per ABSORB command (00_scope R7). -/
def absorbMax : Nat := 4

/-- `draw()`: the free 32-bit value of the n-th read of SEED or DIGEST outside DONE (00_scope R16). It has no body, so no
proof can know it. DESIGN CHOICE, safe: log 5. -/
opaque draw : Nat → Word

/-- The unspecified word that the n-th assertion of reset leaves in slot k (10_state R44, 70 R230): slots 0 to 7 are H,
8 to 15 SEED, 16 to 23 DIGEST. DESIGN CHOICE, safe: log 9. -/
opaque resetWord : Nat → Nat → Word

/-- The unspecified byte that the n-th assertion of reset leaves in BUF[k] (10_state R44, 70 R230).
DESIGN CHOICE, safe: log 9. -/
opaque resetByte : Nat → Nat → Byte

end Sys2Proof.Config
end

