-- ==== Sys2Proof/Syntax.lean ====
section
/-! DEFINITION. The host's operations as syntax: the registers of the window, the error codes, a raw bus access, the
instructions (one constructor for each row of spec/opcode_table.json) and the operations of a host program. -/

namespace Sys2Proof

/-- The two halves of the message-length counter (10_state R36, R37). -/
inductive LenHalf
  | lo
  | hi
deriving DecidableEq, Repr

/-- The registers with R and without W (10_state R32): STATUS, LEN_LO, LEN_HI, SEED0..7 and DIGEST0..7. -/
inductive ReadOnlyReg
  | status
  | len (half : LenHalf)
  | seed (i : Fin 8)
  | digest (i : Fin 8)
deriving DecidableEq, Repr

/-- The reserved offsets (10_state R40): `low i` is 0x14 + 4 i (0x14, 0x18, 0x1C), `high i` is 0x60 + 4 i (0x60 to 0x7C). -/
inductive ReservedReg
  | low (i : Fin 3)
  | high (i : Fin 8)
deriving DecidableEq, Repr

/-- The 32 word registers of the window (10_state R32). -/
inductive Reg
  | cmd
  | dataIn
  | readOnly (r : ReadOnlyReg)
  | reserved (r : ReservedReg)
deriving DecidableEq, Repr

/-- The error codes 1 to 6 (60_exceptions R201). -/
inductive ErrorCode
  | busyViolation
  | illegalOpcode
  | reservedBits
  | badCount
  | sequence
  | lengthOverflow
deriving DecidableEq, Repr

/-- An access as the bus carries it: an absolute address, a width in bytes and, for a write, the data lanes of the
32-bit bus (20_memory R51, R52). Only the 4-byte forms have a meaning; the data of another width never matters. -/
inductive BusAccess
  | read (addr width : Nat)
  | write (addr width : Nat) (data : Word)
deriving DecidableEq, Repr

/-- Read or write of one register: the two forms of the table's row READ_WRITE_reserved_offset. -/
inductive RegAccess
  | read
  | write (data : Word)
deriving DecidableEq, Repr

/-- The instructions of PE-KDC: what one admitted host access asks for. One constructor per row of
spec/opcode_table.json, in its order. -/
inductive Instr
  /-- NOP, command word 0x00000000 (40_commands R101). -/
  | nop
  /-- INIT, command word 0x00000001 (40_commands R102). -/
  | init
  /-- ABSORB n, command word (n << 8) | 0x02, with the 3-bit field CNT (40_commands R103). -/
  | absorb (cnt : BitVec 3)
  /-- FINAL, command word 0x00000003 (40_commands R104). -/
  | final
  /-- WRITE DATA_IN (40_commands R105). -/
  | writeDataIn (v : Word)
  /-- READ DATA_IN (40_commands R106). -/
  | readDataIn
  /-- READ STATUS (40_commands R107). -/
  | readStatus
  /-- READ LEN_LO / LEN_HI (40_commands R108). -/
  | readLen (half : LenHalf)
  /-- READ SEED0..7 (40_commands R109). -/
  | readSeed (i : Fin 8)
  /-- READ DIGEST0..7 (40_commands R110). -/
  | readDigest (i : Fin 8)
  /-- READ CMD (40_commands R111). -/
  | readCmd
  /-- WRITE of a read-only register (40_commands R112). -/
  | writeReadOnly (r : ReadOnlyReg) (v : Word)
  /-- READ or WRITE of a reserved offset (40_commands R113). -/
  | accessReserved (r : ReservedReg) (a : RegAccess)
deriving DecidableEq, Repr

/-- One operation of a host program (30_encoding R79): `rd` and `wr` are `access`, and `poll` repeats a 4-byte read of
`addr` until the value read, masked, equals `value`. `reset` asserts the reset input (70_reset R230). -/
inductive HostOp
  | access (a : BusAccess)
  | poll (addr : Nat) (mask value : Word)
  | reset
deriving DecidableEq, Repr

/-- The two agents (00_scope R13). -/
inductive Agent
  | host
  | engine
deriving DecidableEq, Repr

end Sys2Proof
end

