-- ==== Sys2Proof/WellFormed.lean ====
section
/-! DEFINITION. Which instructions the encoding admits. Register numbers are bounded by their types; the one field with
illegal values is CNT of ABSORB (30_encoding R72). -/

namespace Sys2Proof

/-- CNT of an ABSORB is 1, 2, 3 or 4 (30_encoding R72). -/
def countLegal (cnt : BitVec 3) : Bool := decide (1 ≤ cnt.toNat) && decide (cnt.toNat ≤ Config.absorbMax)

/-- The instruction has an encoding: an ABSORB's count is legal, and every other instruction is well formed as it is. -/
def wellFormed : Instr → Bool
  | .nop => true
  | .init => true
  | .absorb cnt => countLegal cnt
  | .final => true
  | .writeDataIn _ => true
  | .readDataIn => true
  | .readStatus => true
  | .readLen _ => true
  | .readSeed _ => true
  | .readDigest _ => true
  | .readCmd => true
  | .writeReadOnly _ _ => true
  | .accessReserved _ _ => true

end Sys2Proof
end

