-- ==== Sys2Proof/Decode.lean ====
section
/-! DEFINITION. From bits to instructions and back: the command word (30_encoding R70 to R77), the register map
(10_state R32) and the bus access (20_memory R51, R52). Decoding is total and rejects by name. -/

namespace Sys2Proof

/-- Why an access has no step (20_memory R52). -/
inductive NoStep
  /-- The width is not 4 bytes. -/
  | width
  /-- The address is outside BASE .. BASE + 0x7F. -/
  | outside
  /-- The address is not 4-byte aligned. -/
  | misaligned
deriving DecidableEq, Repr

/-- What decoding answers: an instruction, the error code of an illegal command word (30_encoding R75), or an access
that the model refuses (20_memory R52). -/
inductive Decoded
  | instr (i : Instr)
  | illegal (e : ErrorCode)
  | refused (r : NoStep)
deriving DecidableEq, Repr

/-- `OPC = v[7:0]` (30_encoding R71). -/
def opcField (v : Word) : BitVec 8 := v.extractLsb' 0 8

/-- `CNT = v[10:8]` (30_encoding R72). -/
def cntField (v : Word) : BitVec 3 := v.extractLsb' 8 3

/-- `RSV = v[31:11]` (30_encoding R73). -/
def rsvField (v : Word) : BitVec 21 := v.extractLsb' 11 21

/-- Decode of a command word, tried in the order of 30_encoding R75. It answers an instruction or an error code. -/
def decodeCommand (v : Word) : Decoded :=
  if 0x04 ≤ (opcField v).toNat then .illegal .illegalOpcode
  else if rsvField v ≠ 0 then .illegal .reservedBits
  else if opcField v ≠ 0x02 ∧ cntField v ≠ 0 then .illegal .reservedBits
  else if opcField v = 0x02 ∧ countLegal (cntField v) = false then .illegal .badCount
  else if opcField v = 0x00 then .instr .nop
  else if opcField v = 0x01 then .instr .init
  else if opcField v = 0x02 then .instr (.absorb (cntField v))
  else .instr .final

/-- The offset of a read-only register (10_state R32). -/
def readOnlyOffset : ReadOnlyReg → Nat
  | .status => 0x04
  | .len .lo => 0x0C
  | .len .hi => 0x10
  | .seed i => 0x20 + 4 * i.val
  | .digest i => 0x40 + 4 * i.val

/-- The offset of a reserved word (10_state R40). -/
def reservedOffset : ReservedReg → Nat
  | .low i => 0x14 + 4 * i.val
  | .high i => 0x60 + 4 * i.val

/-- The offset of a register in the window (10_state R32). -/
def regOffset : Reg → Nat
  | .cmd => 0x00
  | .dataIn => 0x08
  | .readOnly r => readOnlyOffset r
  | .reserved r => reservedOffset r

/-- The `i`-th of eight, from a word index (an offset over 4) in a bank of eight words. -/
def bankIndex (k : Nat) : Fin 8 := ⟨k % 8, Nat.mod_lt k (by decide)⟩

/-- The register at word index `k`, that is at offset 4 k, of the window's 32 words (10_state R32). -/
def regAtIndex (k : Nat) : Reg :=
  if k = 0 then .cmd
  else if k = 1 then .readOnly .status
  else if k = 2 then .dataIn
  else if k = 3 then .readOnly (.len .lo)
  else if k = 4 then .readOnly (.len .hi)
  else if k = 5 then .reserved (.low 0)
  else if k = 6 then .reserved (.low 1)
  else if k = 7 then .reserved (.low 2)
  else if k < 16 then .readOnly (.seed (bankIndex k))
  else if k < 24 then .readOnly (.digest (bankIndex k))
  else .reserved (.high (bankIndex k))

/-- The register that a `width`-byte access at `addr` reaches when the window lies at `base`, or why the access has no
step (20_memory R51, R52). -/
def locate (base addr width : Nat) : Except NoStep Reg :=
  if width ≠ 4 then .error .width
  else if addr < base ∨ base + Config.windowBytes ≤ addr then .error .outside
  else if (addr - base) % 4 ≠ 0 then .error .misaligned
  else .ok (regAtIndex ((addr - base) / 4))

/-- The instruction that reads a register (40_commands R106 to R111, R113). -/
def readInstr : Reg → Instr
  | .cmd => .readCmd
  | .dataIn => .readDataIn
  | .readOnly .status => .readStatus
  | .readOnly (.len half) => .readLen half
  | .readOnly (.seed i) => .readSeed i
  | .readOnly (.digest i) => .readDigest i
  | .reserved r => .accessReserved r .read

/-- What a write of `v` to a register decodes to (40_commands R100, R105, R112, R113): a write to CMD is a command. -/
def decodeWrite (r : Reg) (v : Word) : Decoded :=
  match r with
  | .cmd => decodeCommand v
  | .dataIn => .instr (.writeDataIn v)
  | .readOnly r => .instr (.writeReadOnly r v)
  | .reserved r => .instr (.accessReserved r (.write v))

/-- Decode of a bus access to the window at `base`; total on every access. -/
def decodeAccess (base : Nat) : BusAccess → Decoded
  | .read addr width =>
    match locate base addr width with
    | .error r => .refused r
    | .ok r => .instr (readInstr r)
  | .write addr width v =>
    match locate base addr width with
    | .error r => .refused r
    | .ok r => decodeWrite r v

/-- The command word of ABSORB: `(n << 8) | 0x02` (30_encoding R80). -/
def absorbWord (cnt : BitVec 3) : Word := (cnt.setWidth 32 <<< 8) ||| 0x02#32

/-- The bus access that asks for an instruction, for the window at `base`: the encoder (30_encoding R74, R80; 10_state R32). -/
def encode (base : Nat) : Instr → BusAccess
  | .nop => .write (base + regOffset .cmd) 4 0x00000000#32
  | .init => .write (base + regOffset .cmd) 4 0x00000001#32
  | .absorb cnt => .write (base + regOffset .cmd) 4 (absorbWord cnt)
  | .final => .write (base + regOffset .cmd) 4 0x00000003#32
  | .writeDataIn v => .write (base + regOffset .dataIn) 4 v
  | .readDataIn => .read (base + regOffset .dataIn) 4
  | .readStatus => .read (base + regOffset (.readOnly .status)) 4
  | .readLen half => .read (base + regOffset (.readOnly (.len half))) 4
  | .readSeed i => .read (base + regOffset (.readOnly (.seed i))) 4
  | .readDigest i => .read (base + regOffset (.readOnly (.digest i))) 4
  | .readCmd => .read (base + regOffset .cmd) 4
  | .writeReadOnly r v => .write (base + regOffset (.readOnly r)) 4 v
  | .accessReserved r .read => .read (base + regOffset (.reserved r)) 4
  | .accessReserved r (.write v) => .write (base + regOffset (.reserved r)) 4 v

/-- The command word of a table row whose bits are `w`, in `nbits` bits, with every bit above them 0. -/
def tableWord (nbits w : Nat) : Word := BitVec.ofNat 32 (w % 2 ^ nbits)

/-- The access by which the host writes that command word to CMD (30_encoding R70). -/
def tableAccess (base nbits w : Nat) : BusAccess := .write (base + regOffset .cmd) 4 (tableWord nbits w)

/-- The instruction the decoder reads from a table row's bits. Only command words have bits in the table (30_encoding R70):
a row of no bits has no word, and a number of more than 32 bits is no command word (log 15). -/
def decodeTableWord (nbits w : Nat) : Option Instr :=
  if nbits = 0 ∨ 2 ^ 32 ≤ w % 2 ^ nbits then none
  else
    match decodeAccess 0 (tableAccess 0 nbits w) with
    | .instr i => some i
    | .illegal _ => none
    | .refused _ => none

end Sys2Proof
end

