-- ==== Sys2Proof/Machine/State.lean ====
section
/-! DEFINITION. The state of PE-KDC version 1 (10_state R20 to R45) as plain data, beside the two agents' inputs, and the
state after reset (10_state R44). -/

namespace Sys2Proof.Machine

/-- PHASE, the block's sequencing state (10_state R23). -/
inductive Phase
  /-- 0: no message is open. -/
  | idle
  /-- 1: a message is open. -/
  | absorbing
  /-- 2: FINAL was accepted. -/
  | finalizing
  /-- 3: the digest is complete. -/
  | done
deriving DecidableEq, Repr

/-- Why the machine stops with a fault. It has no constructor: the block has no traps (60_exceptions R200, R209), and a
protocol error is a next state with the error recorded (60_exceptions R202). Safe: nothing stops here. -/
inductive Fault : Type
deriving DecidableEq, Repr

/-- Why the model gives a host access no step. -/
inductive Refusal
  /-- An instruction without a meaning yet; raised by no arm of `exec`. Safe. -/
  | notModelled (mnemonic : String)
  /-- Raised by a host access of a width other than 4 bytes (20_memory R52). Safe: errs toward unprovable. -/
  | accessWidth
  /-- Raised by a host access outside BASE .. BASE + 0x7F (20_memory R52). Safe: errs toward unprovable. -/
  | outsideWindow
  /-- Raised by a host access that is not 4-byte aligned (20_memory R52). Safe: errs toward unprovable. -/
  | misaligned
deriving DecidableEq, Repr

/-- One value the host got back from a read: `name <- MemRead(BASE + off, 4)` (00_scope R12, 70_reset R240). -/
structure Reading where
  /-- The register that was read. -/
  reg : Reg
  /-- The value the read returned. -/
  value : Word
deriving DecidableEq, Repr

/-- The block's state (10_state R45 says that R23 to R31 are complete) and, after it, the model's own fields. -/
structure State where
  /-- PHASE (10_state R23). -/
  phase : Phase
  /-- PENDING, the FIFO of blocks waiting for the engine, head first (10_state R29). BUSY is defined from it (R24). -/
  pending : List Block
  /-- ERR (10_state R25). -/
  err : Bool
  /-- ERRCODE, 3 bits (10_state R25). -/
  errCode : BitVec 3
  /-- H[0..7], the chaining words (10_state R26). -/
  h : Words8
  /-- BUF[0..63], message bytes not yet formed into a block (10_state R27). -/
  buf : Block
  /-- BUFCNT, 0 to 63, the number of valid bytes of BUF (10_state R27). -/
  bufCnt : Fin 64
  /-- LEN, the 61-bit count of accepted message bytes (10_state R28). -/
  len : BitVec 61
  /-- DATA_IN (10_state R30). -/
  dataIn : Word
  /-- SEED[0..7] (10_state R31). -/
  seed : Words8
  /-- DIGEST[0..7] (10_state R31). -/
  digest : Words8
  /-- The OPEN parameter BASE is 0x80 times this number (00_scope R7, 20_memory R60). No step writes it. Log 4. -/
  window : Nat
  /-- The host's operations still to perform, first one first (00_scope R13). Model's own; log 1. -/
  host : List HostOp
  /-- Who moves at the coming turns (00_scope R13, 70_reset R238). Model's own; log 2. -/
  schedule : List Agent
  /-- What the host's reads returned, newest first. Model's own; log 10. -/
  received : List Reading
  /-- How many free values have been drawn (00_scope R16). Model's own; log 5. -/
  draws : Nat
deriving DecidableEq, Repr

/-- The machine right after reset (10_state R44; power-on is the same state, 70_reset R230). H, BUF, SEED and DIGEST are
unspecified there: zero is DESIGN CHOICE, unsafe (log 6, 7, 8). The fields from `window` on are the model's own (log 1,
2, 4, 5, 10). -/
def State.reset : State where
  phase := .idle
  pending := []
  err := false
  errCode := 0
  h := Vector.replicate 8 0
  buf := Vector.replicate 64 0
  bufCnt := 0
  len := 0
  dataIn := 0
  seed := Vector.replicate 8 0
  digest := Vector.replicate 8 0
  window := 0
  host := []
  schedule := []
  received := []
  draws := 0

end Sys2Proof.Machine
end

