-- ==== Sys2Proof/Machine/Flags.lean ====
section
/-! DEFINITION. The flags and the words computed from the state: BUSY, DONE, STATUS, LEN_LO, LEN_HI and the numbers of
phases and error codes (10_state R23 to R25, R34, R36, R37; 60_exceptions R201). -/

namespace Sys2Proof.Machine

/-- The number of a phase (10_state R23). -/
def phaseNumber : Phase → BitVec 2
  | .idle => 0
  | .absorbing => 1
  | .finalizing => 2
  | .done => 3

/-- The number of an error code (60_exceptions R201). -/
def errorNumber : ErrorCode → BitVec 3
  | .busyViolation => 1
  | .illegalOpcode => 2
  | .reservedBits => 3
  | .badCount => 4
  | .sequence => 5
  | .lengthOverflow => 6

/-- BUSY is 1 exactly when PENDING is not empty (10_state R24). -/
def busy (s : State) : Bool := !s.pending.isEmpty

/-- DONE is 1 exactly when PHASE = 3 (10_state R34). -/
def doneFlag (s : State) : Bool := decide (s.phase = .done)

/-- A flag as a 32-bit number. -/
def flagWord (b : Bool) : Word := (BitVec.ofBool b).setWidth 32

/-- `STATUS = BUSY | (PHASE = 3) << 1 | ERR << 2 | PHASE << 4 | ERRCODE << 8` (10_state R34, 40_commands R107). -/
def statusWord (s : State) : Word :=
  flagWord (busy s) ||| (flagWord (doneFlag s) <<< 1) ||| (flagWord s.err <<< 2) |||
    ((phaseNumber s.phase).setWidth 32 <<< 4) ||| (s.errCode.setWidth 32 <<< 8)

/-- LEN_LO is LEN[31:0]; LEN_HI is LEN[60:32] with three zero bits above (10_state R36, R37; 40_commands R108). -/
def lenWord (len : BitVec 61) : LenHalf → Word
  | .lo => len.extractLsb' 0 32
  | .hi => (len.extractLsb' 32 29).setWidth 32

end Sys2Proof.Machine
end

