-- ==== Sys2Proof/Machine/Bytes.lean ====
section
/-! DEFINITION. Byte-word conversions and the rotations of 00_scope R10 and R11. -/

namespace Sys2Proof.Machine

/-- `SHR(a, n)`: logical right shift, zeros shifted in (00_scope R10). -/
def shr (a : Word) (n : Nat) : Word := a >>> n

/-- `ROTR(a, n)` for 1 ≤ n ≤ 31: `SHR(a, n) ∨ (a << (32 - n))` (00_scope R10). -/
def rotr (a : Word) (n : Nat) : Word := shr a n ||| (a <<< (32 - n))

/-- Byte `k` of a byte string; the rules read only inside the string. -/
def byteAt (s : List Byte) (k : Nat) : Byte := s.getD k 0

/-- `be32(s, k)`: big-endian, `s[k]` is bits 31..24 (00_scope R11). -/
def be32 (s : List Byte) (k : Nat) : Word :=
  byteAt s k ++ byteAt s (k + 1) ++ byteAt s (k + 2) ++ byteAt s (k + 3)

/-- `le32(s, k)`: little-endian, `s[k]` is bits 7..0 (00_scope R11). Bytes past the end of `s` count as 0, which is the
`le32'` of 30_encoding R81. -/
def le32 (s : List Byte) (k : Nat) : Word :=
  byteAt s (k + 3) ++ byteAt s (k + 2) ++ byteAt s (k + 1) ++ byteAt s k

/-- Byte lane `j` of a word, `w[8j+7 : 8j]` (20_memory R53, R54). -/
def lane (w : Word) (j : Nat) : Byte := w.extractLsb' (8 * j) 8

/-- `bswap32(w) = {w[7:0], w[15:8], w[23:16], w[31:24]}` (00_scope R11). -/
def bswap32 (w : Word) : Word := lane w 0 ++ lane w 1 ++ lane w 2 ++ lane w 3

/-- `be32⁻¹(w)`: the 4-byte big-endian string of a word (00_scope R11). -/
def be32Inv (w : Word) : List Byte := [lane w 3, lane w 2, lane w 1, lane w 0]

/-- `be64(n)`: the 8-byte big-endian string of a number below 2^64 (00_scope R11). -/
def be64 (n : Nat) : List Byte :=
  (List.range 8).map fun j => (BitVec.ofNat 64 n).extractLsb' (8 * (7 - j)) 8

/-- The first 64 bytes of a byte string, as a block. -/
def toBlock (s : List Byte) : Block := Vector.ofFn fun i : Fin 64 => byteAt s i.val

/-- The whole 64-byte blocks of a byte string, in order; a shorter rest is left out. -/
def blocksOf (s : List Byte) : List Block :=
  (List.range (s.length / 64)).map fun j => toBlock (s.drop (64 * j))

end Sys2Proof.Machine
end

