-- ==== Sys2Proof/Machine/Operands.lean ====
section
/-! DEFINITION. The operands of the commands: the bytes ABSORB takes from DATA_IN, the valid bytes of BUF that FINAL
pads, and the address of the window. -/

namespace Sys2Proof.Machine

/-- The first `n` byte lanes of a word, `DATA_IN[7:0]` first (20_memory R54, 30_encoding R78). -/
def laneBytes (w : Word) (n : Nat) : List Byte := (List.range n).map fun j => lane w j

/-- `BUF[0 .. BUFCNT-1]`, the message bytes not yet formed into a block (10_state R27). -/
def validBytes (s : State) : List Byte := s.buf.toList.take s.bufCnt.val

/-- BASE, a multiple of 0x80 (00_scope R7, 20_memory R60). -/
def base (s : State) : Nat := Config.windowBytes * s.window

end Sys2Proof.Machine
end

