-- ==== Sys2Proof/Machine/Sha256.lean ====
section
/-! DEFINITION. SHA-256 as 41_sha256_engine R141 to R152 transcribe it, and the function of the block (00_scope R2, R3):
digest and seed material of a byte string. -/

namespace Sys2Proof.Machine

/-- `Ch` (41 R145). -/
def ch (x y z : Word) : Word := (x &&& y) ^^^ (~~~x &&& z)

/-- `Maj` (41 R145). -/
def maj (x y z : Word) : Word := (x &&& y) ^^^ (x &&& z) ^^^ (y &&& z)

/-- `Σ0` (41 R146). -/
def bigSigma0 (x : Word) : Word := rotr x 2 ^^^ rotr x 13 ^^^ rotr x 22

/-- `Σ1` (41 R146). -/
def bigSigma1 (x : Word) : Word := rotr x 6 ^^^ rotr x 11 ^^^ rotr x 25

/-- `σ0` (41 R147). -/
def smallSigma0 (x : Word) : Word := rotr x 7 ^^^ rotr x 18 ^^^ shr x 3

/-- `σ1` (41 R147). -/
def smallSigma1 (x : Word) : Word := rotr x 17 ^^^ rotr x 19 ^^^ shr x 10

/-- The initial hash value `IV[0..7]` (41 R151). -/
def initialHash : Words8 :=
  #v[0x6A09E667, 0xBB67AE85, 0x3C6EF372, 0xA54FF53A, 0x510E527F, 0x9B05688C, 0x1F83D9AB, 0x5BE0CD19]

/-- The round constants K[0..15] (41 R152). -/
def roundConstants0 : List Word :=
  [0x428A2F98, 0x71374491, 0xB5C0FBCF, 0xE9B5DBA5, 0x3956C25B, 0x59F111F1, 0x923F82A4, 0xAB1C5ED5,
   0xD807AA98, 0x12835B01, 0x243185BE, 0x550C7DC3, 0x72BE5D74, 0x80DEB1FE, 0x9BDC06A7, 0xC19BF174]

/-- The round constants K[16..31] (41 R152). -/
def roundConstants1 : List Word :=
  [0xE49B69C1, 0xEFBE4786, 0x0FC19DC6, 0x240CA1CC, 0x2DE92C6F, 0x4A7484AA, 0x5CB0A9DC, 0x76F988DA,
   0x983E5152, 0xA831C66D, 0xB00327C8, 0xBF597FC7, 0xC6E00BF3, 0xD5A79147, 0x06CA6351, 0x14292967]

/-- The round constants K[32..47] (41 R152). -/
def roundConstants2 : List Word :=
  [0x27B70A85, 0x2E1B2138, 0x4D2C6DFC, 0x53380D13, 0x650A7354, 0x766A0ABB, 0x81C2C92E, 0x92722C85,
   0xA2BFE8A1, 0xA81A664B, 0xC24B8B70, 0xC76C51A3, 0xD192E819, 0xD6990624, 0xF40E3585, 0x106AA070]

/-- The round constants K[48..63] (41 R152). -/
def roundConstants3 : List Word :=
  [0x19A4C116, 0x1E376C08, 0x2748774C, 0x34B0BCB5, 0x391C0CB3, 0x4ED8AA4A, 0x5B9CCA4F, 0x682E6FF3,
   0x748F82EE, 0x78A5636F, 0x84C87814, 0x8CC70208, 0x90BEFFFA, 0xA4506CEB, 0xBEF9A3F7, 0xC67178F2]

/-- The round constants K[0..63] (41 R152). -/
def roundConstants : List Word := roundConstants0 ++ roundConstants1 ++ roundConstants2 ++ roundConstants3

/-- The sixteen words `M[t] = be32(B, 4t)` of a block (41 R143). -/
def parseBlock (b : Block) : List Word := (List.range 16).map fun t => be32 b.toList (4 * t)

/-- The next word of the schedule from the earlier ones, newest first:
`W[t] = σ1(W[t-2]) + W[t-7] + σ0(W[t-15]) + W[t-16]` (41 R144). -/
def nextScheduleWord (ws : List Word) : Word :=
  smallSigma1 (ws.getD 1 0) + ws.getD 6 0 + smallSigma0 (ws.getD 14 0) + ws.getD 15 0

/-- `n` more words of the schedule put before the earlier ones, newest first (41 R144). -/
def extendSchedule : Nat → List Word → List Word
  | 0, ws => ws
  | n + 1, ws => extendSchedule n (nextScheduleWord ws :: ws)

/-- The message schedule `W[0..63]` of a block (41 R144). -/
def messageSchedule (b : Block) : List Word := (extendSchedule 48 (parseBlock b).reverse).reverse

/-- The working variables of one compression (41 R148). -/
structure Working where
  a : Word
  b : Word
  c : Word
  d : Word
  e : Word
  f : Word
  g : Word
  h : Word
deriving DecidableEq, Repr

/-- The working variables loaded from the chaining value (41 R148). -/
def loadWorking (h : Words8) : Working := ⟨h[0], h[1], h[2], h[3], h[4], h[5], h[6], h[7]⟩

/-- `T1` of a round with constant `k` and schedule word `w` (41 R149). -/
def roundT1 (v : Working) (k w : Word) : Word := v.h + bigSigma1 v.e + ch v.e v.f v.g + k + w

/-- `T2` of a round (41 R149). -/
def roundT2 (v : Working) : Word := bigSigma0 v.a + maj v.a v.b v.c

/-- One round; the eight assignments act as one simultaneous update (41 R149). -/
def shaRound (v : Working) (k w : Word) : Working :=
  { a := roundT1 v k w + roundT2 v, b := v.a, c := v.b, d := v.c,
    e := v.d + roundT1 v k w, f := v.e, g := v.f, h := v.g }

/-- Rounds 0 to 63, from the pairs (K[t], W[t]) (41 R149, R150). -/
def runRounds (v : Working) (kws : List (Word × Word)) : Working :=
  kws.foldl (fun v kw => shaRound v kw.1 kw.2) v

/-- The working variables as eight words, in order. -/
def workingWords (v : Working) : Words8 := #v[v.a, v.b, v.c, v.d, v.e, v.f, v.g, v.h]

/-- `Compress(H, B)` with its feed-forward sum (41 R150). -/
def compress (h : Words8) (b : Block) : Words8 :=
  let v := workingWords (runRounds (loadWorking h) (roundConstants.zip (messageSchedule b)))
  Vector.ofFn fun i : Fin 8 => h[i] + v[i]

/-- The number of zero bytes in the padding of a string of `n` bytes: `(55 - n) mod 64` (41 R142). -/
def padZeros (n : Nat) : Nat := ((55 - (n : Int)) % 64).toNat

/-- `Pad(T, L)` (41 R142). -/
def pad (t : List Byte) (l : Nat) : List Byte :=
  t ++ [0x80] ++ List.replicate (padZeros t.length) 0x00 ++ be64 (8 * l)

/-- The final chaining value of a whole message: SHA-256 of FIPS 180-4 (00_scope R3, 41 R142, R150, R151). -/
def sha256 (m : List Byte) : Words8 := (blocksOf (pad m m.length)).foldl compress initialHash

/-- The 32-byte digest, the big-endian string of a final chaining value (41 R141). -/
def digestBytes (h : Words8) : List Byte :=
  be32Inv h[0] ++ be32Inv h[1] ++ be32Inv h[2] ++ be32Inv h[3] ++
    be32Inv h[4] ++ be32Inv h[5] ++ be32Inv h[6] ++ be32Inv h[7]

/-- The seed words of a final chaining value, `SEED[i] = bswap32(H[i])` (41 R141). -/
def seedWords (h : Words8) : Words8 := Vector.ofFn fun i : Fin 8 => bswap32 h[i]

/-- The source's seed material of a byte string (00_scope R2): the digest's little-endian groups, read as signed. -/
def seedMaterial (m : List Byte) : List Int :=
  (List.range 8).map fun i => toInt32 (le32 (digestBytes (sha256 m)) (4 * i))

end Sys2Proof.Machine
end

