-- ==== Sys2Proof/Machine/Ops.lean ====
section
/-! DEFINITION. The named operations that the meanings share: recording an error (60_exceptions R202), the command gate
(40_commands R100), the gate of ABSORB and FINAL (60_exceptions R205), the buffer, the queue, the host's reads and reset. -/

namespace Sys2Proof.Machine

/-- `raise Error(c)`: the block's one exception-like operation. The first error is kept; nothing else changes
(60_exceptions R202, R204, R210). -/
def raiseError (e : ErrorCode) (s : State) : State :=
  if s.err then s else { s with err := true, errCode := errorNumber e }

/-- Clearing of the error record: what only INIT and reset do (60_exceptions R206). -/
def clearError (s : State) : State := { s with err := false, errCode := 0 }

/-- The command gate: any CMD write while BUSY = 1 is a BUSY_VIOLATION (40_commands R100). -/
def commandGate (body : State → State) (s : State) : State :=
  if busy s then raiseError .busyViolation s else body s

/-- A CMD write whose word does not decode records the decode error, behind the command gate (40_commands R100). -/
def rejectCommand (e : ErrorCode) (s : State) : State := commandGate (raiseError e) s

/-- The gate of ABSORB and FINAL: dropped while ERR = 1, a SEQUENCE error outside ABSORBING (40_commands R103, R104;
60_exceptions R205). -/
def messageGate (body : State → State) (s : State) : State :=
  if s.err then s
  else if s.phase ≠ .absorbing then raiseError .sequence s
  else body s

/-- The effect of an accepted INIT (40_commands R102). -/
def openMessage (s : State) : State :=
  clearError { s with h := initialHash, bufCnt := 0, len := 0, phase := .absorbing }

/-- One pass of ABSORB's loop: the byte goes to BUF[BUFCNT], and a full buffer becomes a pending block (40_commands R103). -/
def appendByte (s : State) (b : Byte) : State :=
  let buf := s.buf.set s.bufCnt.val b s.bufCnt.isLt
  if s.bufCnt.val + 1 = 64 then { s with buf := buf, pending := s.pending ++ [buf], bufCnt := 0 }
  else { s with buf := buf, bufCnt := s.bufCnt + 1 }

/-- ABSORB's loop over the bytes it takes (40_commands R103). -/
def appendBytes (bs : List Byte) (s : State) : State := bs.foldl appendByte s

/-- `LEN <- LEN + n` (40_commands R103). -/
def countBytes (n : Nat) (s : State) : State := { s with len := s.len + BitVec.ofNat 61 n }

/-- The effect of an accepted ABSORB of `n` bytes, behind the length check (40_commands R103, 60_exceptions R204). -/
def absorbBytes (n : Nat) (s : State) : State :=
  if Config.maxMsgBytes < s.len.toNat + n then raiseError .lengthOverflow s
  else countBytes n (appendBytes (laneBytes s.dataIn n) s)

/-- The one or two last blocks of the open message: `Pad(BUF[0 .. BUFCNT-1], LEN)` (40_commands R104, 41 R142). -/
def finalBlocks (s : State) : List Block :=
  let p := pad (validBytes s) s.len.toNat
  if p.length = 128 then [toBlock p, toBlock (p.drop 64)] else [toBlock p]

/-- The effect of an accepted FINAL (40_commands R104). -/
def closeMessage (s : State) : State :=
  { s with pending := s.pending ++ finalBlocks s, bufCnt := 0, phase := .finalizing }

/-- `DATA_IN <- v` (40_commands R105). -/
def setDataIn (v : Word) (s : State) : State := { s with dataIn := v }

/-- The host gets `v` back from its read of `r` (00_scope R12); the block's own state is as before (20_memory R59). -/
def receive (r : Reg) (v : Word) (s : State) : State := { s with received := ⟨r, v⟩ :: s.received }

/-- The host gets a `draw()` back: a free value under no law, a new one each time (00_scope R16). -/
def receiveDraw (r : Reg) (s : State) : State :=
  { receive r (Config.draw s.draws) s with draws := s.draws + 1 }

/-- A read of SEED or DIGEST: the stored word in DONE, a `draw()` in any other phase (40_commands R109, R110). -/
def receiveOutput (r : Reg) (v : Word) (s : State) : State :=
  if s.phase = .done then receive r v s else receiveDraw r s

/-- The value the host's last read returned. -/
def lastValue (s : State) : Word :=
  match s.received with
  | [] => 0
  | r :: _ => r.value

/-- Unspecified words, from the `n`-th assertion of reset (10_state R44). -/
def unspecifiedWords (n first : Nat) : Words8 := Vector.ofFn fun i : Fin 8 => Config.resetWord n (first + i.val)

/-- An unspecified buffer, from the `n`-th assertion of reset (10_state R44). -/
def unspecifiedBuffer (n : Nat) : Block := Vector.ofFn fun i : Fin 64 => Config.resetByte n i.val

/-- The reset input asserted (70_reset R230, 10_state R44): the block's elements take their reset values, and the
unspecified ones are free values (log 9). BASE, the host's own program and what it has read are not the block's (log 16). -/
def resetSignal (s : State) : State :=
  { s with
    phase := .idle, pending := [], err := false, errCode := 0, len := 0, bufCnt := 0, dataIn := 0,
    h := unspecifiedWords s.draws 0, seed := unspecifiedWords s.draws 8, digest := unspecifiedWords s.draws 16,
    buf := unspecifiedBuffer s.draws, draws := s.draws + 1 }

end Sys2Proof.Machine
end

