-- ==== Sys2Proof/Machine/Commands.lean ====
section
/-! DEFINITION. The meanings of the four commands NOP, INIT, ABSORB and FINAL (40_commands R101 to R104). Each stands
behind the command gate of R100, and each is one atomic step. -/

namespace Sys2Proof.Machine

/-- NOP: no effect behind the gate (40_commands R101). -/
def execNop (s : State) : Host.Outcome State Fault Refusal := .next (commandGate (fun t => t) s)

/-- INIT: open a new message (40_commands R102). -/
def execInit (s : State) : Host.Outcome State Fault Refusal := .next (commandGate openMessage s)

/-- ABSORB with the field CNT: append that many bytes of DATA_IN. A CNT outside 1..4, which no decoded ABSORB has, raises
BAD_COUNT, in the order of 60_exceptions R203 (40_commands R103; log 14). -/
def execAbsorb (cnt : BitVec 3) (s : State) : Host.Outcome State Fault Refusal :=
  if countLegal cnt then .next (commandGate (messageGate (absorbBytes cnt.toNat)) s)
  else .next (rejectCommand .badCount s)

/-- FINAL: close the message, pad it and queue its last blocks (40_commands R104). -/
def execFinal (s : State) : Host.Outcome State Fault Refusal :=
  .next (commandGate (messageGate closeMessage) s)

end Sys2Proof.Machine
end

