-- ==== Sys2Proof/Machine/Registers.lean ====
section
/-! DEFINITION. The meanings of the host's register accesses other than CMD writes (40_commands R105 to R113). -/

namespace Sys2Proof.Machine

/-- WRITE DATA_IN (40_commands R105). -/
def execWriteDataIn (v : Word) (s : State) : Host.Outcome State Fault Refusal := .next (setDataIn v s)

/-- READ DATA_IN (40_commands R106). -/
def execReadDataIn (s : State) : Host.Outcome State Fault Refusal := .next (receive .dataIn s.dataIn s)

/-- READ STATUS (40_commands R107). -/
def execReadStatus (s : State) : Host.Outcome State Fault Refusal :=
  .next (receive (.readOnly .status) (statusWord s) s)

/-- READ LEN_LO / LEN_HI (40_commands R108). -/
def execReadLen (half : LenHalf) (s : State) : Host.Outcome State Fault Refusal :=
  .next (receive (.readOnly (.len half)) (lenWord s.len half) s)

/-- READ SEED0..7 (40_commands R109). -/
def execReadSeed (i : Fin 8) (s : State) : Host.Outcome State Fault Refusal :=
  .next (receiveOutput (.readOnly (.seed i)) s.seed[i] s)

/-- READ DIGEST0..7 (40_commands R110). -/
def execReadDigest (i : Fin 8) (s : State) : Host.Outcome State Fault Refusal :=
  .next (receiveOutput (.readOnly (.digest i)) s.digest[i] s)

/-- READ CMD: CMD holds no value and reads 0 (40_commands R111). -/
def execReadCmd (s : State) : Host.Outcome State Fault Refusal := .next (receive .cmd 0 s)

/-- WRITE of a read-only register: ignored (40_commands R112). -/
def execWriteReadOnly (_r : ReadOnlyReg) (_v : Word) (s : State) : Host.Outcome State Fault Refusal := .next s

/-- READ or WRITE of a reserved offset: it reads 0 and ignores writes (40_commands R113). -/
def execAccessReserved (r : ReservedReg) (a : RegAccess) (s : State) : Host.Outcome State Fault Refusal :=
  match a with
  | .read => .next (receive (.reserved r) 0 s)
  | .write _ => .next s

end Sys2Proof.Machine
end

