-- ==== Sys2Proof/Machine/Dispatch.lean ====
section
/-! DEFINITION. One arm per instruction of spec/opcode_table.json. -/

namespace Sys2Proof.Machine

-- The meaning of an instruction: one admitted host access, as one atomic step (00_scope R15).
def exec (i : Instr) (s : State) : Host.Outcome State Fault Refusal :=
  match i with
  | .nop => Sys2Proof.Machine.execNop s
  | .init => Sys2Proof.Machine.execInit s
  | .absorb cnt => Sys2Proof.Machine.execAbsorb cnt s
  | .final => Sys2Proof.Machine.execFinal s
  | .writeDataIn v => Sys2Proof.Machine.execWriteDataIn v s
  | .readDataIn => Sys2Proof.Machine.execReadDataIn s
  | .readStatus => Sys2Proof.Machine.execReadStatus s
  | .readLen half => Sys2Proof.Machine.execReadLen half s
  | .readSeed k => Sys2Proof.Machine.execReadSeed k s
  | .readDigest k => Sys2Proof.Machine.execReadDigest k s
  | .readCmd => Sys2Proof.Machine.execReadCmd s
  | .writeReadOnly r v => Sys2Proof.Machine.execWriteReadOnly r v s
  | .accessReserved r a => Sys2Proof.Machine.execAccessReserved r a s

end Sys2Proof.Machine
end

