-- ==== Sys2Proof/Machine/Engine.lean ====
section
/-! DEFINITION. The engine agent (41_sha256_engine R140, R141). -/

namespace Sys2Proof.Machine

/-- What the engine step that empties PENDING in FINALIZING does: DIGEST and SEED from H, then DONE (41 R140, R141). -/
def deliverDigest (s : State) : State := { s with digest := s.h, seed := seedWords s.h, phase := .done }

/-- The head of PENDING is compressed into H and removed (41 R140). -/
def compressHead (b : Block) (rest : List Block) (s : State) : State :=
  { s with h := compress s.h b, pending := rest }

/-- The engine step (41 R140). With PENDING empty it is not enabled and the engine's turn changes nothing
(60_exceptions R217). -/
def engineStep (s : State) : State :=
  match s.pending with
  | [] => s
  | b :: rest =>
    if rest.isEmpty && decide (s.phase = .finalizing) then deliverDigest (compressHead b rest s)
    else compressHead b rest s

end Sys2Proof.Machine
end

