-- ==== Sys2Proof/Machine/Access.lean ====
section
/-! DEFINITION. The two agents' turns (00_scope R13): the host's bus accesses, polls and resets, and the engine. -/

namespace Sys2Proof.Machine

/-- The refusal of an access that has no step (20_memory R52). -/
def refusalOf : NoStep → Refusal
  | .width => .accessWidth
  | .outside => .outsideWindow
  | .misaligned => .misaligned

/-- One bus access of the host: it is decoded, and the instruction it asks for is executed. An illegal command word records
its error (40_commands R100); an access that the spec refuses has no step (20_memory R52). -/
def hostAccess (a : BusAccess) (s : State) : Host.Outcome State Fault Refusal :=
  match decodeAccess (base s) a with
  | .instr i => exec i s
  | .illegal e => .next (rejectCommand e s)
  | .refused r => .refused (refusalOf r)

/-- `(t ∧ MASK) = VALUE` for the value `t` just read ends a poll (30_encoding R79). -/
def pollSatisfied (mask value : Word) (s : State) : Bool := decide (lastValue s &&& mask = value)

/-- One read of a poll: the host goes on to `rest` when the value read satisfies it, and reads again otherwise
(30_encoding R79; log 17). -/
def hostPoll (addr : Nat) (mask value : Word) (rest : List HostOp) (s : State) : Host.Outcome State Fault Refusal :=
  match hostAccess (.read addr 4) s with
  | .next t => .next (if pollSatisfied mask value t then { t with host := rest } else t)
  | .fault r => .fault r
  | .refused r => .refused r

/-- The host's turn: its next operation. A host with nothing left to do changes nothing (log 3). -/
def hostTurn (s : State) : Host.Outcome State Fault Refusal :=
  match s.host with
  | [] => .next s
  | .access a :: rest => hostAccess a { s with host := rest }
  | .poll addr mask value :: rest => hostPoll addr mask value rest s
  | .reset :: rest => .next (resetSignal { s with host := rest })

/-- Whose turn it is: the schedule says; with none left, the engine's while a block is pending, so that every pending block
is compressed (weak fairness, 70_reset R238), and the host's otherwise (log 2). -/
def nextAgent (s : State) : Agent :=
  match s.schedule with
  | a :: _ => a
  | [] => if busy s then .engine else .host

/-- The turn that is taken now leaves the schedule. -/
def popTurn (s : State) : State := { s with schedule := s.schedule.tail }

/-- One turn of one agent: an atomic step of the machine (00_scope R13, R15). -/
def takeTurn (s : State) : Host.Outcome State Fault Refusal :=
  match nextAgent s with
  | .host => hostTurn (popTurn s)
  | .engine => .next (engineStep (popTurn s))

/-- The state with an access put before everything the host still does, and the coming turn given to the host. -/
def issueNext (a : BusAccess) (s : State) : State :=
  { s with host := .access a :: s.host, schedule := .host :: s.schedule }

end Sys2Proof.Machine
end

