-- ==== Sys2Proof/Machine/Step.lean ====
section
/-! DEFINITION. The step of the machine, one turn of one agent (00_scope R13), and the placing of a command word where the
next step takes it. -/

namespace Sys2Proof.Machine

/-- One step: one turn of the host or of the engine. -/
def step (s : State) : Host.Outcome State Fault Refusal := takeTurn s

/-- `s` with a table row's command word as the host's next access and the next turn the host's (log 1). -/
def State.withFetchWord (s : State) (nbits w : Nat) : State := issueNext (tableAccess (base s) nbits w) s

end Sys2Proof.Machine
end

