-- ==== Sys2Proof/Machine/HostProgram.lean ====
section
/-! DEFINITION. The host-program notation and the pseudo-instructions of 30_encoding R79 to R81, for a window at `base`. -/

namespace Sys2Proof.Machine

/-- The host operation that asks for an instruction (30_encoding R79, R80). -/
def issue (base : Nat) (i : Instr) : HostOp := .access (encode base i)

/-- `LOAD v`: `wr DATA_IN, v` (30_encoding R81). -/
def loadOps (base : Nat) (v : Word) : List HostOp := [issue base (.writeDataIn v)]

/-- `WAIT`: `poll STATUS, 0x00000001, 0x00000000` (30_encoding R81). -/
def waitOps (base : Nat) : List HostOp := [.poll (base + regOffset (.readOnly .status)) 0x00000001#32 0x00000000#32]

/-- `PUT k, v`: `LOAD v ; ABSORB k ; WAIT` (30_encoding R81). -/
def putOps (base k : Nat) (v : Word) : List HostOp :=
  loadOps base v ++ [issue base (.absorb (BitVec.ofNat 3 k))] ++ waitOps base

/-- The `PUT` of `KDF m` for the group of bytes that starts at 4 q (30_encoding R81). -/
def groupOps (base : Nat) (m : List Byte) (q : Nat) : List HostOp :=
  putOps base (min 4 (m.length - 4 * q)) (le32 m (4 * q))

/-- The reads of SEED0 to SEED7, in order (30_encoding R81). -/
def readSeedsOps (base : Nat) : List HostOp := (List.finRange 8).map fun i => issue base (.readSeed i)

/-- `KDF m` (30_encoding R81). -/
def kdfOps (base : Nat) (m : List Byte) : List HostOp :=
  [issue base .init] ++ (List.range ((m.length + 3) / 4)).flatMap (groupOps base m) ++
    [issue base .final] ++ waitOps base ++ [issue base .readStatus] ++ readSeedsOps base

end Sys2Proof.Machine
end

