-- ==== Sys2Proof/Safety.lean ====
section
/-! DEFINITION. The terms in which statements speak of a good state and a good run: the invariants of 10_state R43, what
the block holds of a message, and the end of a key-derivation run (70_reset R239). -/

namespace Sys2Proof.Machine

/-- 10_state R43 (a). -/
def idleClear (s : State) : Prop := s.phase = .idle → s.len = 0 ∧ s.bufCnt = 0 ∧ s.pending = []

/-- 10_state R43 (b). -/
def absorbingCounts (s : State) : Prop :=
  s.phase = .absorbing → s.bufCnt.val = s.len.toNat % 64 ∧ s.pending.length ≤ 1

/-- 10_state R43 (c). -/
def finalizingPending (s : State) : Prop :=
  s.phase = .finalizing → s.bufCnt = 0 ∧ 1 ≤ s.pending.length ∧ s.pending.length ≤ 2

/-- 10_state R43 (d). -/
def doneQuiet (s : State) : Prop := s.phase = .done → s.bufCnt = 0 ∧ s.pending = []

/-- 10_state R43 (e), and code 7 is never produced (60_exceptions R201, 93 I6). -/
def errorRecordSound (s : State) : Prop := (s.err = false ↔ s.errCode = 0) ∧ s.errCode ≠ 7

/-- The invariants of every reachable state (10_state R43); (f) is part of them although LEN's width implies it. -/
structure Invariant (s : State) : Prop where
  idle : idleClear s
  absorbing : absorbingCounts s
  finalizing : finalizingPending s
  done : doneQuiet s
  error : errorRecordSound s
  length : s.len.toNat ≤ Config.maxMsgBytes

/-- In ABSORBING the block holds the message `m` (10_state R26 to R29): LEN is its length, BUF its last incomplete block,
and H, once the pending blocks are compressed, the chaining value of its whole blocks. -/
structure HoldsOpen (m : List Byte) (s : State) : Prop where
  length : s.len.toNat = m.length
  count : s.bufCnt.val = m.length % 64
  tail : validBytes s = m.drop (64 * (m.length / 64))
  chain : s.pending.foldl compress s.h = (blocksOf m).foldl compress initialHash

/-- In FINALIZING the pending blocks take H to the final chaining value of `m` (41 R140 to R142). -/
structure HoldsClosed (m : List Byte) (s : State) : Prop where
  length : s.len.toNat = m.length
  waiting : s.pending ≠ []
  chain : s.pending.foldl compress s.h = sha256 m

/-- In DONE the outputs are those of `m` (41 R153). -/
structure HoldsDigest (m : List Byte) (s : State) : Prop where
  length : s.len.toNat = m.length
  pending : s.pending = []
  digest : s.digest = sha256 m
  seed : s.seed = seedWords (sha256 m)

/-- The block serves the message `m`, whatever phase it is in. -/
def Serves (m : List Byte) (s : State) : Prop :=
  match s.phase with
  | .idle => False
  | .absorbing => HoldsOpen m s
  | .finalizing => HoldsClosed m s
  | .done => HoldsDigest m s

/-- `s` reaches `t` in `n` steps, each of them with a next state. -/
def reachesIn : Nat → State → State → Prop
  | 0, s, t => s = t
  | n + 1, s, t => ∃ u, step s = .next u ∧ reachesIn n u t

/-- The readings the host made since `start`, newest first. -/
def readingsSince (start s : State) : List Reading := s.received.take (s.received.length - start.received.length)

/-- The value of the newest STATUS read among some readings. -/
def lastStatus : List Reading → Option Word
  | [] => none
  | r :: rs => if r.reg = .readOnly .status then some r.value else lastStatus rs

/-- DONE, nothing pending, and the run's last STATUS read returned DONE = 1 (70_reset R239). -/
def runEnded (start s : State) : Prop :=
  s.phase = .done ∧ s.pending = [] ∧ ∃ v, lastStatus (readingsSince start s) = some v ∧ v.getLsbD 1 = true

/-- The block is as reset leaves it: the values that 10_state R44 states. -/
def atReset (s : State) : Prop :=
  s.phase = .idle ∧ s.pending = [] ∧ s.err = false ∧ s.errCode = 0 ∧ s.len = 0 ∧ s.bufCnt = 0 ∧ s.dataIn = 0

/-- The host's next operation is an INIT that is accepted: BUSY = 0, so it passes the command gate whenever the host's turn
comes (40_commands R100, R102). -/
def atAcceptedInit (s : State) : Prop :=
  busy s = false ∧ ∃ a rest, s.host = .access a :: rest ∧ decodeAccess (base s) a = .instr .init

/-- Where a key-derivation run starts: at reset or at an accepted INIT (70_reset R239; log 13). -/
def startsRun (s : State) : Prop := atReset s ∨ atAcceptedInit s

/-- A key-derivation run starts at `start` and ends at `t` after `n` steps: `t` is its first ended state (70_reset R239). -/
def endsRunAt (start : State) (n : Nat) (t : State) : Prop :=
  startsRun start ∧ reachesIn n start t ∧ runEnded start t ∧
    ∀ k u, k < n → reachesIn k start u → ¬ runEnded start u

/-- What the host gets back from one access, when it is a read with a next state. -/
def readBack (a : BusAccess) (s : State) (v : Reading) : Prop :=
  ∃ u, hostAccess a s = .next u ∧ u.received = v :: s.received

/-- The result of a run that ends at `t`: the eight values SEED0 to SEED7 that the host reads in that state
(70_reset R239). -/
def runResult (t : State) (result : Words8) : Prop :=
  ∀ i : Fin 8, readBack (encode (base t) (.readSeed i)) t ⟨.readOnly (.seed i), result[i]⟩

/-- The run's last STATUS read shows ERR = 1: the host must treat it as failed (70_reset R239). -/
def protocolFault (start s : State) : Prop :=
  ∃ v, lastStatus (readingsSince start s) = some v ∧ v.getLsbD 2 = true

end Sys2Proof.Machine
end

