-- ==== Sys2Proof/Certificates/Slice0/Obligations.lean ====
section
/-! DEFINITION. The statements for the provers, from the numbered rules of spec/. Each docstring names its rules. -/

open Sys2Proof Sys2Proof.Machine

/-! ### Encoding -/

/-- Decoding the access that encodes a well-formed instruction gives that instruction back, every operand at every value
(30_encoding R74, R80; 10_state R32). -/
def Obligations.DecodeAfterEncode : Prop :=
  ∀ (base : Nat) (i : Instr), wellFormed i = true → decodeAccess base (encode base i) = .instr i

/-- An access that decodes to an instruction is the one access that encodes it, and the instruction is well formed. -/
def Obligations.EncodeAfterDecode : Prop :=
  ∀ (base : Nat) (a : BusAccess) (i : Instr),
    decodeAccess base a = .instr i → wellFormed i = true ∧ a = encode base i

/-- 30_encoding R74: exactly seven command words are legal, each with its command; every other word has one error code, and
a reserved opcode's is ILLEGAL_OPCODE. -/
def Obligations.SevenLegalCommandWords : Prop :=
  (∀ (v : Word) (i : Instr), decodeCommand v = .instr i ↔
    (v = 0x00000000#32 ∧ i = .nop) ∨ (v = 0x00000001#32 ∧ i = .init) ∨
    (v = 0x00000102#32 ∧ i = .absorb 1) ∨ (v = 0x00000202#32 ∧ i = .absorb 2) ∨
    (v = 0x00000302#32 ∧ i = .absorb 3) ∨ (v = 0x00000402#32 ∧ i = .absorb 4) ∨
    (v = 0x00000003#32 ∧ i = .final)) ∧
  (∀ v : Word, (∀ i, decodeCommand v ≠ .instr i) → ∃ e, decodeCommand v = .illegal e) ∧
  (∀ v : Word, 4 ≤ v.toNat % 256 → decodeCommand v = .illegal .illegalOpcode)

/-- 30_encoding R75: the decode in its order, with the fields read arithmetically from the word. -/
def Obligations.DecodeInOrder : Prop :=
  ∀ v : Word,
    decodeCommand v =
      (if 4 ≤ v.toNat % 256 then .illegal .illegalOpcode
       else if v.toNat / 2048 ≠ 0 then .illegal .reservedBits
       else if v.toNat % 256 ≠ 2 ∧ v.toNat / 256 % 8 ≠ 0 then .illegal .reservedBits
       else if v.toNat % 256 = 2 ∧ ¬ (1 ≤ v.toNat / 256 % 8 ∧ v.toNat / 256 % 8 ≤ 4) then .illegal .badCount
       else if v.toNat % 256 = 0 then .instr .nop
       else if v.toNat % 256 = 1 then .instr .init
       else if v.toNat % 256 = 2 then .instr (.absorb (BitVec.ofNat 3 (v.toNat / 256 % 8)))
       else .instr .final)

/-- 30_encoding R82: the encoding examples. -/
def Obligations.EncodingExamples : Prop :=
  decodeCommand 0x00000001#32 = .instr .init ∧
  decodeCommand 0x00000302#32 = .instr (.absorb 3) ∧
  decodeCommand 0x00000402#32 = .instr (.absorb 4) ∧
  decodeCommand 0x00000003#32 = .instr .final ∧
  decodeCommand 0x00000004#32 = .illegal .illegalOpcode ∧
  decodeCommand 0x00000101#32 = .illegal .reservedBits ∧
  decodeCommand 0x00000002#32 = .illegal .badCount ∧
  decodeCommand 0x00000502#32 = .illegal .badCount ∧
  decodeCommand 0x80000001#32 = .illegal .reservedBits ∧
  decodeCommand 0x00000A02#32 = .illegal .reservedBits

/-- 10_state R32, 20_memory R51: the window's 32 words are the registers, each at its offset and each once, and the offsets
are the numbers of the register map. -/
def Obligations.WindowHoldsThirtyTwoRegisters : Prop :=
  (∀ (base : Nat) (r : Reg), locate base (base + regOffset r) 4 = .ok r) ∧
  (∀ off : Nat, off < 0x80 → off % 4 = 0 → ∃ r : Reg, regOffset r = off ∧ ∀ q : Reg, regOffset q = off → q = r) ∧
  regOffset .cmd = 0x00 ∧ regOffset (.readOnly .status) = 0x04 ∧ regOffset .dataIn = 0x08 ∧
  regOffset (.readOnly (.len .lo)) = 0x0C ∧ regOffset (.readOnly (.len .hi)) = 0x10 ∧
  (∀ i : Fin 8, regOffset (.readOnly (.seed i)) = 0x20 + 4 * i.val ∧
    regOffset (.readOnly (.digest i)) = 0x40 + 4 * i.val ∧ regOffset (.reserved (.high i)) = 0x60 + 4 * i.val) ∧
  (∀ i : Fin 3, regOffset (.reserved (.low i)) = 0x14 + 4 * i.val)

/-- 20_memory R52: exactly the accesses of another width, the misaligned ones and the ones outside the window are refused;
every other access has a next state. -/
def Obligations.RefusedAccessesAreTheIllegalOnes : Prop :=
  ∀ (s : State) (addr width : Nat) (v : Word) (a : BusAccess), a = .read addr width ∨ a = .write addr width v →
    ((width ≠ 4 ∨ addr % 4 ≠ 0 ∨ addr < base s ∨ base s + 0x7F < addr) → ∃ r, hostAccess a s = .refused r) ∧
    (¬ (width ≠ 4 ∨ addr % 4 ≠ 0 ∨ addr < base s ∨ base s + 0x7F < addr) → ∃ t, hostAccess a s = .next t)

/-! ### The step -/

/-- A step at the host's turn runs the instruction its next access decodes to, records the error of an illegal command word
(40_commands R100), and has no step for a refused access (20_memory R52). Around it, the model's own: the taken turn and the
host's operation leave their lists (log 1, 2). -/
def Obligations.StepRunsDecodedAccess : Prop :=
  ∀ (s : State) (a : BusAccess) (rest : List HostOp), nextAgent s = .host → s.host = .access a :: rest →
    (∀ i, decodeAccess (base s) a = .instr i →
      step s = exec i { s with schedule := s.schedule.tail, host := rest }) ∧
    (∀ e, decodeAccess (base s) a = .illegal e →
      step s = .next (rejectCommand e { s with schedule := s.schedule.tail, host := rest })) ∧
    (∀ r, decodeAccess (base s) a = .refused r → step s = .refused (refusalOf r))

/-- A command word placed where the step takes its next access runs as the instruction the decoder reads from it
(the model's placing, log 1). -/
def Obligations.PlacedWordRunsNext : Prop :=
  ∀ (s : State) (nbits w : Nat) (i : Instr),
    decodeTableWord nbits w = some i → step (s.withFetchWord nbits w) = exec i s

/-- 40_commands R100: the handler of a write to CMD. -/
def Obligations.CmdWriteRunsHandler : Prop :=
  ∀ (s : State) (v : Word),
    (busy s = true →
      hostAccess (.write (base s) 4 v) s = .next (if s.err then s else { s with err := true, errCode := 1 })) ∧
    (∀ e, busy s = false → decodeCommand v = .illegal e →
      hostAccess (.write (base s) 4 v) s =
        .next (if s.err then s else { s with err := true, errCode := errorNumber e })) ∧
    (∀ i, busy s = false → decodeCommand v = .instr i → hostAccess (.write (base s) 4 v) s = exec i s)

/-! ### NOP, INIT, ABSORB, FINAL -/

/-- 40_commands R101: NOP's word, that it changes nothing, in every phase and with ERR = 1, and its errors. -/
def Obligations.NopHasNoEffect : Prop :=
  ∀ s : State,
    decodeCommand 0x00000000#32 = .instr .nop ∧
    (busy s = false → exec .nop s = .next s) ∧
    (busy s = true → exec .nop s = .next (if s.err then s else { s with err := true, errCode := 1 })) ∧
    (∀ v : Word, v.toNat % 256 = 0 → v ≠ 0x00000000#32 → decodeCommand v = .illegal .reservedBits)

/-- 40_commands R102: INIT's word; INIT opens a message in every phase with BUSY = 0; its errors; two INITs in a row act like one. -/
def Obligations.InitOpensMessage : Prop :=
  ∀ s : State,
    decodeCommand 0x00000001#32 = .instr .init ∧
    (busy s = false → exec .init s = .next { s with
      h := #v[0x6A09E667#32, 0xBB67AE85#32, 0x3C6EF372#32, 0xA54FF53A#32,
              0x510E527F#32, 0x9B05688C#32, 0x1F83D9AB#32, 0x5BE0CD19#32],
      bufCnt := 0, len := 0, phase := .absorbing, err := false, errCode := 0 }) ∧
    (busy s = true → exec .init s = .next (if s.err then s else { s with err := true, errCode := 1 })) ∧
    (∀ v : Word, v.toNat % 256 = 1 → v ≠ 0x00000001#32 → decodeCommand v = .illegal .reservedBits) ∧
    (∀ t : State, exec .init s = .next t → exec .init t = .next t ∨ busy s = true)

/-- 40_commands R103: an accepted ABSORB appends the first CNT lanes of DATA_IN to the message, queues the block that fills,
counts the bytes, and changes nothing else. -/
def Obligations.AbsorbAppendsBytes : Prop :=
  ∀ (cnt : BitVec 3) (s : State), busy s = false → s.err = false → s.phase = .absorbing →
    1 ≤ cnt.toNat → cnt.toNat ≤ 4 → s.len.toNat + cnt.toNat ≤ 2 ^ 61 - 1 →
    ∃ t, exec (.absorb cnt) s = .next t ∧
      t.len.toNat = s.len.toNat + cnt.toNat ∧
      (s.bufCnt.val + cnt.toNat < 64 →
        t.pending = [] ∧ t.bufCnt.val = s.bufCnt.val + cnt.toNat ∧
        validBytes t = validBytes s ++ (List.range cnt.toNat).map fun j => s.dataIn.extractLsb' (8 * j) 8) ∧
      (64 ≤ s.bufCnt.val + cnt.toNat →
        ∃ b, t.pending = [b] ∧ t.bufCnt.val = s.bufCnt.val + cnt.toNat - 64 ∧
        b.toList ++ validBytes t =
          validBytes s ++ (List.range cnt.toNat).map fun j => s.dataIn.extractLsb' (8 * j) 8) ∧
      t = { s with len := t.len, buf := t.buf, bufCnt := t.bufCnt, pending := t.pending }

/-- 40_commands R103, 60_exceptions R203: when an ABSORB is rejected or dropped, and that it then changes nothing but the
error record. That exec of a count outside 1..4, which no decoded word has, raises BAD_COUNT ahead of the ERR gate is the
model's reading (log 14). -/
def Obligations.AbsorbRejectedOrDropped : Prop :=
  ∀ (cnt : BitVec 3) (s : State),
    (busy s = true → exec (.absorb cnt) s = .next (if s.err then s else { s with err := true, errCode := 1 })) ∧
    (busy s = false → ¬ (1 ≤ cnt.toNat ∧ cnt.toNat ≤ 4) →
      exec (.absorb cnt) s = .next (if s.err then s else { s with err := true, errCode := 4 })) ∧
    (busy s = false → 1 ≤ cnt.toNat → cnt.toNat ≤ 4 → s.err = true → exec (.absorb cnt) s = .next s) ∧
    (busy s = false → 1 ≤ cnt.toNat → cnt.toNat ≤ 4 → s.err = false → s.phase ≠ .absorbing →
      exec (.absorb cnt) s = .next { s with err := true, errCode := 5 }) ∧
    (busy s = false → 1 ≤ cnt.toNat → cnt.toNat ≤ 4 → s.err = false → s.phase = .absorbing →
      2 ^ 61 - 1 < s.len.toNat + cnt.toNat → exec (.absorb cnt) s = .next { s with err := true, errCode := 6 })

/-- 40_commands R104: an accepted FINAL queues the padded tail as one block (BUFCNT ≤ 55) or two, and changes nothing else
but BUFCNT and PHASE. -/
def Obligations.FinalQueuesPaddedTail : Prop :=
  ∀ s : State, busy s = false → s.err = false → s.phase = .absorbing →
    ∃ (t : State) (k : Nat), exec .final s = .next t ∧ k < 64 ∧ (s.bufCnt.val + 1 + k + 8) % 64 = 0 ∧
      (t.pending.map fun b => b.toList).flatten =
        validBytes s ++ [0x80#8] ++ List.replicate k 0x00#8 ++ be64 (8 * s.len.toNat) ∧
      t.pending.length = (if s.bufCnt.val ≤ 55 then 1 else 2) ∧
      t = { s with pending := t.pending, bufCnt := 0, phase := .finalizing }

/-- 40_commands R104, 60_exceptions R203: when a FINAL is rejected or dropped. -/
def Obligations.FinalRejectedOrDropped : Prop :=
  ∀ s : State,
    (busy s = true → exec .final s = .next (if s.err then s else { s with err := true, errCode := 1 })) ∧
    (busy s = false → s.err = true → exec .final s = .next s) ∧
    (busy s = false → s.err = false → s.phase ≠ .absorbing →
      exec .final s = .next { s with err := true, errCode := 5 }) ∧
    (∀ v : Word, v.toNat % 256 = 3 → v ≠ 0x00000003#32 → decodeCommand v = .illegal .reservedBits)

/-- 20_memory R54: lanes are taken from the low end, so a host that packs four message bytes with le32 has them absorbed in
message order. -/
def Obligations.LanesInMessageOrder : Prop :=
  (∀ (w : Word) (n : Nat), laneBytes w n = (List.range n).map fun j => w.extractLsb' (8 * j) 8) ∧
  (∀ (m : List Byte) (k : Nat), k + 4 ≤ m.length → laneBytes (le32 m k) 4 = (m.drop k).take 4)

/-- 10_state R35, 92 D24: bytes of DATA_IN beyond the count are ignored. -/
def Obligations.UpperLanesIgnored : Prop :=
  ∀ (cnt : BitVec 3) (s t : State) (w : Word),
    (∀ j, j < cnt.toNat → w.extractLsb' (8 * j) 8 = s.dataIn.extractLsb' (8 * j) 8) →
    exec (.absorb cnt) s = .next t → exec (.absorb cnt) { s with dataIn := w } = .next { t with dataIn := w }

/-- 70_reset R234: which commands can set BUSY, and that while BUSY = 1 every CMD write is a BUSY_VIOLATION with no other
effect. -/
def Obligations.CommandWhileBusyHazard : Prop :=
  (∀ (cnt : BitVec 3) (s t : State), Invariant s → busy s = false → s.err = false → s.phase = .absorbing →
    countLegal cnt = true → s.len.toNat + cnt.toNat ≤ 2 ^ 61 - 1 → exec (.absorb cnt) s = .next t →
    (busy t = true ↔ 64 ≤ s.len.toNat % 64 + cnt.toNat)) ∧
  (∀ s t : State, busy s = false → s.err = false → s.phase = .absorbing → exec .final s = .next t → busy t = true) ∧
  (∀ (s : State) (v : Word), busy s = true → s.err = false →
    hostAccess (.write (base s) 4 v) s = .next { s with err := true, errCode := 1 })

/-! ### Errors -/

/-- 60_exceptions R202: an error is recorded only when none is, and nothing else changes. -/
def Obligations.RaiseErrorKeepsFirst : Prop :=
  ∀ (e : ErrorCode) (s : State),
    (s.err = false → raiseError e s = { s with err := true, errCode := errorNumber e }) ∧
    (s.err = true → raiseError e s = s) ∧
    errorNumber .busyViolation = 1 ∧ errorNumber .illegalOpcode = 2 ∧ errorNumber .reservedBits = 3 ∧
    errorNumber .badCount = 4 ∧ errorNumber .sequence = 5 ∧ errorNumber .lengthOverflow = 6

/-- 60_exceptions R203: one CMD write reports the first error in the order of the codes; with ERR = 1 a legal ABSORB or FINAL
is dropped. -/
def Obligations.CommandErrorPriority : Prop :=
  ∀ (s : State) (v : Word),
    (s.err = false → s.errCode = 0 →
      ∃ (t : State) (code : BitVec 3), hostAccess (.write (base s) 4 v) s = .next t ∧
        t.errCode = code ∧ (t.err = true ↔ code ≠ 0) ∧
        code =
          (if s.pending ≠ [] then 1
           else if 4 ≤ v.toNat % 256 then 2
           else if v.toNat / 2048 ≠ 0 ∨ (v.toNat % 256 ≠ 2 ∧ v.toNat / 256 % 8 ≠ 0) then 3
           else if v.toNat % 256 = 2 ∧ ¬ (1 ≤ v.toNat / 256 % 8 ∧ v.toNat / 256 % 8 ≤ 4) then 4
           else if 2 ≤ v.toNat % 256 ∧ s.phase ≠ .absorbing then 5
           else if v.toNat % 256 = 2 ∧ 2 ^ 61 - 1 < s.len.toNat + v.toNat / 256 % 8 then 6
           else 0)) ∧
    (s.err = true → s.pending = [] → (∃ cnt, decodeCommand v = .instr (.absorb cnt)) ∨ decodeCommand v = .instr .final →
      hostAccess (.write (base s) 4 v) s = .next s)

/-- 60_exceptions R204: a command that raises an error changes nothing but ERR and ERRCODE. -/
def Obligations.RejectedCommandIsPrecise : Prop :=
  ∀ (s t : State) (v : Word), s.err = false → hostAccess (.write (base s) 4 v) s = .next t → t.err = true →
    t = { s with err := true, errCode := t.errCode }

/-- 60_exceptions R205, R210: with ERR = 1 every CMD write but INIT leaves the state as it is (no second error is recorded,
ABSORB and FINAL are dropped), and INIT is still executed. -/
def Obligations.ErrorGateDropsCommands : Prop :=
  ∀ s : State, s.err = true →
    (∀ v : Word, busy s = true ∨ v ≠ 0x00000001#32 → hostAccess (.write (base s) 4 v) s = .next s) ∧
    (busy s = false → ∃ t, hostAccess (.write (base s) 4 0x00000001#32) s = .next t ∧
      t.phase = .absorbing ∧ t.err = false ∧ t.errCode = 0)

/-- 60_exceptions R206: only an accepted INIT and reset clear the error record. -/
def Obligations.OnlyInitAndResetClearError : Prop :=
  ∀ s t : State, s.err = true → step s = .next t →
    (t.err = true ∧ t.errCode = s.errCode) ∨
    (t.err = false ∧ t.errCode = 0 ∧ nextAgent s = .host ∧
      ((∃ rest, s.host = .reset :: rest) ∨
       (∃ a rest, s.host = .access a :: rest ∧ decodeAccess (base s) a = .instr .init ∧ busy s = false)))

/-! ### Register accesses -/

/-- 40_commands R105, R106: a write of DATA_IN stores in every state, and a read returns the last value written, or 0 since
reset; neither changes anything else. What a read returns stands in `received`, in every statement on reads (log 10). -/
def Obligations.DataInHoldsLastWrite : Prop :=
  (∀ (v : Word) (s : State), exec (.writeDataIn v) s = .next { s with dataIn := v }) ∧
  (∀ s : State, exec .readDataIn s = .next { s with received := ⟨.dataIn, s.dataIn⟩ :: s.received }) ∧
  State.reset.dataIn = 0 ∧ (∀ s : State, (resetSignal s).dataIn = 0)

/-- 40_commands R107: a read of STATUS returns the word computed from the state and changes nothing; its listed values. -/
def Obligations.ReadStatusReturnsStatus : Prop :=
  (∀ s : State, exec .readStatus s =
    .next { s with received := ⟨.readOnly .status, statusWord s⟩ :: s.received }) ∧
  statusWord State.reset = 0x00000000#32 ∧
  (∀ s : State, s.err = false → s.errCode = 0 →
    (s.phase = .absorbing → s.pending = [] → statusWord s = 0x00000010#32) ∧
    (s.phase = .absorbing → s.pending ≠ [] → statusWord s = 0x00000011#32) ∧
    (s.phase = .finalizing → s.pending ≠ [] → statusWord s = 0x00000021#32) ∧
    (s.phase = .done → s.pending = [] → statusWord s = 0x00000032#32)) ∧
  (∀ s : State, s.phase = .idle → s.pending = [] → s.err = true → s.errCode = 5 → statusWord s = 0x00000504#32)

/-- 10_state R34: the fields of STATUS, as numbers; every other bit is 0. It is read-only and 0 after reset. -/
def Obligations.StatusWordFields : Prop :=
  (∀ s : State, (statusWord s).toNat =
    (if s.pending ≠ [] then 1 else 0) + 2 * (if s.phase = .done then 1 else 0) + 4 * (if s.err = true then 1 else 0) +
      16 * (match s.phase with | .idle => 0 | .absorbing => 1 | .finalizing => 2 | .done => 3) +
      256 * s.errCode.toNat) ∧
  (∀ (v : Word) (s : State), exec (.writeReadOnly .status v) s = .next s) ∧
  statusWord State.reset = 0

/-- 10_state R36, R37: LEN_LO and LEN_HI together are the 61-bit LEN, with bits 31:29 of LEN_HI zero; writes are ignored;
both are 0 after reset. -/
def Obligations.ReadLenSplitsCounter : Prop :=
  (∀ s : State, ∃ lo hi : Word,
    exec (.readLen .lo) s = .next { s with received := ⟨.readOnly (.len .lo), lo⟩ :: s.received } ∧
    exec (.readLen .hi) s = .next { s with received := ⟨.readOnly (.len .hi), hi⟩ :: s.received } ∧
    lo.toNat = s.len.toNat % 2 ^ 32 ∧ hi.toNat = s.len.toNat / 2 ^ 32 ∧ hi.toNat < 2 ^ 29) ∧
  (∀ (half : LenHalf) (v : Word) (s : State), exec (.writeReadOnly (.len half) v) s = .next s) ∧
  State.reset.len = 0

/-- 40_commands R109, R110: a read of SEED or DIGEST returns the stored word in DONE and a draw in any other phase;
the counter of the draws is the model's (log 5). -/
def Obligations.OutputReadsReturnStoredOrDraw : Prop :=
  ∀ (i : Fin 8) (s : State),
    (s.phase = .done →
      exec (.readSeed i) s = .next { s with received := ⟨.readOnly (.seed i), s.seed[i]⟩ :: s.received } ∧
      exec (.readDigest i) s = .next { s with received := ⟨.readOnly (.digest i), s.digest[i]⟩ :: s.received }) ∧
    (s.phase ≠ .done →
      exec (.readSeed i) s = .next { s with
        received := ⟨.readOnly (.seed i), Config.draw s.draws⟩ :: s.received, draws := s.draws + 1 } ∧
      exec (.readDigest i) s = .next { s with
        received := ⟨.readOnly (.digest i), Config.draw s.draws⟩ :: s.received, draws := s.draws + 1 })

/-- 40_commands R111, R113: CMD and the reserved offsets read 0, and the reserved offsets ignore writes. -/
def Obligations.CmdAndReservedReadZero : Prop :=
  (∀ s : State, exec .readCmd s = .next { s with received := ⟨.cmd, 0x00000000#32⟩ :: s.received }) ∧
  ∀ (r : ReservedReg) (s : State),
    exec (.accessReserved r .read) s = .next { s with received := ⟨.reserved r, 0x00000000#32⟩ :: s.received } ∧
    (∀ v : Word, exec (.accessReserved r (.write v)) s = .next s)

/-- 40_commands R112: a write of a read-only register changes no state. -/
def Obligations.ReadOnlyWritesIgnored : Prop :=
  ∀ (r : ReadOnlyReg) (v : Word) (s : State), exec (.writeReadOnly r v) s = .next s

/-- 20_memory R59: a read changes no state of the block, and a second read of the same register returns the same value,
but for SEED and DIGEST outside DONE. -/
def Obligations.ReadsHaveNoSideEffect : Prop :=
  ∀ (addr : Nat) (s t : State), hostAccess (.read addr 4) s = .next t →
    ∃ (r : Reg) (v : Word), t = { s with received := ⟨r, v⟩ :: s.received, draws := t.draws } ∧
      ((s.phase = .done ∨ (∀ i, r ≠ .readOnly (.seed i) ∧ r ≠ .readOnly (.digest i))) →
        t.draws = s.draws ∧
        hostAccess (.read addr 4) t = .next { t with received := ⟨r, v⟩ :: t.received })

/-- 70_reset R236, 00_scope R16: outside DONE nothing that an instruction or a step does or reads depends on SEED or DIGEST:
with other words in them, it goes the same way, and the next state differs in no other field, and in none at all once DONE is
reached. The equality of values read from SEED and DIGEST themselves is the model's choice: a draw is a function of its
counter alone (log 5), where 92 D15 lets hardware return stale words. -/
def Obligations.StaleOutputsUnobservable : Prop :=
  ∀ (s : State) (x y : Words8), s.phase ≠ .done →
    (∀ (i : Instr) (t : State), exec i s = .next t →
      exec i { s with seed := x, digest := y } = .next { t with seed := x, digest := y }) ∧
    (∀ t : State, step s = .next t → ∃ t' : State, step { s with seed := x, digest := y } = .next t' ∧
      (t' = t ∨ t' = { t with seed := x, digest := y }) ∧ (t.phase = .done → t' = t)) ∧
    (∀ r : Refusal, step s = .refused r → step { s with seed := x, digest := y } = .refused r)

/-- 10_state R42: what the host reads, STATUS and LEN do not depend on H or on the contents of BUF. For values read from
SEED and DIGEST outside DONE this is the model's choice: a draw is a function of its counter alone (log 5), where 92 D15
lets hardware alias the outputs onto H. -/
def Obligations.HiddenStateUnobservable : Prop :=
  ∀ (i : Instr) (s t : State) (x : Words8) (b : Block), exec i s = .next t →
    ∃ t', exec i { s with h := x, buf := b } = .next t' ∧
      t'.received = t.received ∧ statusWord t' = statusWord t ∧ t'.len = t.len ∧ t'.dataIn = t.dataIn ∧
      t'.bufCnt = t.bufCnt ∧ t'.pending.length = t.pending.length

/-! ### The engine and SHA-256 -/

/-- 41 R140: the engine's turn compresses the head of PENDING, and the turn that empties PENDING in FINALIZING delivers the
digest; it neither reads nor writes ERR, DATA_IN, LEN and BUFCNT. The model's own: whose turn it is stands in the
schedule (log 2), and a turn with PENDING empty does nothing (log 3). -/
def Obligations.EngineTurnCompressesHead : Prop :=
  (∀ (s : State) (b : Block) (rest : List Block), nextAgent s = .engine → s.pending = b :: rest →
    step s = .next
      (if rest = [] ∧ s.phase = .finalizing then
        { s with schedule := s.schedule.tail, h := compress s.h b, pending := [], digest := compress s.h b,
                 seed := Vector.ofFn fun i : Fin 8 => bswap32 (compress s.h b)[i], phase := .done }
       else { s with schedule := s.schedule.tail, h := compress s.h b, pending := rest })) ∧
  (∀ s : State, s.pending = [] → engineStep s = s) ∧
  (∀ (s : State) (e : Bool) (c : BitVec 3) (d : Word) (l : BitVec 61) (k : Fin 64),
    engineStep { s with err := e, errCode := c, dataIn := d, len := l, bufCnt := k } =
      { engineStep s with err := e, errCode := c, dataIn := d, len := l, bufCnt := k })

/-- 41 R141, 20_memory R56: the digest is the big-endian string of H, DIGEST[i] = be32(d, 4i) = H[i] and
SEED[i] = le32(d, 4i) = bswap32(H[i]); the source's seed material is the signed reading of the seed words (00_scope R2). -/
def Obligations.OutputsFromChainingValue : Prop :=
  (∀ h : Words8, (digestBytes h).length = 32) ∧
  (∀ (h : Words8) (i : Fin 8), be32 (digestBytes h) (4 * i.val) = h[i] ∧
    le32 (digestBytes h) (4 * i.val) = bswap32 h[i] ∧ (seedWords h)[i] = bswap32 h[i]) ∧
  (∀ m : List Byte, seedMaterial m = (List.finRange 8).map fun i => toInt32 (seedWords (sha256 m))[i])

/-- 41 R142: the padding's bytes, its length of one or two blocks, and the message length in bits as its last eight bytes,
big-endian. -/
def Obligations.PaddingShape : Prop :=
  ∀ (tail : List Byte) (len : Nat), tail.length ≤ 63 → 8 * len < 2 ^ 64 →
    ∃ k : Nat, (k : Int) = (55 - (tail.length : Int)) % 64 ∧
      pad tail len = tail ++ [0x80#8] ++ List.replicate k 0x00#8 ++ be64 (8 * len) ∧
      (pad tail len).length = (if tail.length ≤ 55 then 64 else 128) ∧
      (be64 (8 * len)).length = 8 ∧
      (be64 (8 * len)).foldl (fun acc b => 256 * acc + b.toNat) 0 = 8 * len

/-- 41 R143, R144: the message schedule of a block, as the rules' equations. -/
def Obligations.MessageScheduleRecurrence : Prop :=
  ∀ b : Block, (messageSchedule b).length = 64 ∧
    (∀ (t : Nat) (ht : t < 16), (messageSchedule b).getD t 0 =
      b[4 * t]'(by omega) ++ b[4 * t + 1]'(by omega) ++ b[4 * t + 2]'(by omega) ++ b[4 * t + 3]'(by omega)) ∧
    (∀ t : Nat, 16 ≤ t → t < 64 → (messageSchedule b).getD t 0 =
      smallSigma1 ((messageSchedule b).getD (t - 2) 0) + (messageSchedule b).getD (t - 7) 0 +
        smallSigma0 ((messageSchedule b).getD (t - 15) 0) + (messageSchedule b).getD (t - 16) 0)

/-- 41 R145: Ch and Maj, bit by bit. -/
def Obligations.ChooseAndMajorityBitwise : Prop :=
  ∀ (x y z : Word) (i : Nat),
    (ch x y z).getLsbD i = (if x.getLsbD i = true then y.getLsbD i else z.getLsbD i) ∧
    ((maj x y z).getLsbD i = true ↔
      (x.getLsbD i = true ∧ y.getLsbD i = true) ∨ (x.getLsbD i = true ∧ z.getLsbD i = true) ∨
      (y.getLsbD i = true ∧ z.getLsbD i = true))

/-- 41 R146, R147: the four sigma functions, by rotations and shifts of the whole word (00_scope R10). -/
def Obligations.SigmasAreRotations : Prop :=
  ∀ x : Word,
    bigSigma0 x = x.rotateRight 2 ^^^ x.rotateRight 13 ^^^ x.rotateRight 22 ∧
    bigSigma1 x = x.rotateRight 6 ^^^ x.rotateRight 11 ^^^ x.rotateRight 25 ∧
    smallSigma0 x = x.rotateRight 7 ^^^ x.rotateRight 18 ^^^ (x >>> 3) ∧
    smallSigma1 x = x.rotateRight 17 ^^^ x.rotateRight 19 ^^^ (x >>> 10)

/-- 41 R148, R149, R150: Compress loads the working variables, runs rounds 0 to 63 and adds the chaining value. -/
def Obligations.CompressRunsSixtyFourRounds : Prop :=
  ∀ (h : Words8) (b : Block), ∃ v : Nat → Working,
    v 0 = ⟨h[0], h[1], h[2], h[3], h[4], h[5], h[6], h[7]⟩ ∧
    (∀ t, t < 64 → ∃ t1 t2 : Word,
      t1 = (v t).h + bigSigma1 (v t).e + ch (v t).e (v t).f (v t).g + roundConstants.getD t 0 +
        (messageSchedule b).getD t 0 ∧
      t2 = bigSigma0 (v t).a + maj (v t).a (v t).b (v t).c ∧
      v (t + 1) = ⟨t1 + t2, (v t).a, (v t).b, (v t).c, (v t).d + t1, (v t).e, (v t).f, (v t).g⟩) ∧
    compress h b = #v[h[0] + (v 64).a, h[1] + (v 64).b, h[2] + (v 64).c, h[3] + (v 64).d,
                      h[4] + (v 64).e, h[5] + (v 64).f, h[6] + (v 64).g, h[7] + (v 64).h]

/-- 41 R151, R152: the initial hash value is the first 32 bits of the fractional parts of the square roots of the first
eight primes, and the round constants those of the cube roots of the first 64 primes (a is a root's whole part). -/
def Obligations.ConstantsFromPrimeRoots : Prop :=
  ∃ primes : List Nat,
    primes = (List.range 312).filter (fun n => decide (2 ≤ n ∧ ∀ d < n, 2 ≤ d → n % d ≠ 0)) ∧
    primes.length = 64 ∧ roundConstants.length = 64 ∧
    (∀ i : Fin 8, ∃ a < 5, (a * 2 ^ 32 + (initialHash[i]).toNat) ^ 2 ≤ primes.getD i.val 0 * 2 ^ 64 ∧
      primes.getD i.val 0 * 2 ^ 64 < (a * 2 ^ 32 + (initialHash[i]).toNat + 1) ^ 2) ∧
    ∀ t < 64, ∃ a < 7, (a * 2 ^ 32 + (roundConstants.getD t 0).toNat) ^ 3 ≤ primes.getD t 0 * 2 ^ 96 ∧
      primes.getD t 0 * 2 ^ 96 < (a * 2 ^ 32 + (roundConstants.getD t 0).toNat + 1) ^ 3

/-! ### Messages -/

/-- INIT with BUSY = 0 leaves the block holding the empty message (40_commands R102). -/
def Obligations.InitHoldsEmptyMessage : Prop :=
  ∀ s : State, busy s = false → ∃ t, exec .init s = .next t ∧ t.phase = .absorbing ∧ HoldsOpen [] t

/-- An accepted ABSORB takes the message m to m and the absorbed bytes (40_commands R103). -/
def Obligations.AbsorbExtendsMessage : Prop :=
  ∀ (cnt : BitVec 3) (m : List Byte) (s : State), busy s = false → s.err = false → s.phase = .absorbing →
    HoldsOpen m s → 1 ≤ cnt.toNat → cnt.toNat ≤ 4 → m.length + cnt.toNat ≤ 2 ^ 61 - 1 →
    ∃ t, exec (.absorb cnt) s = .next t ∧ t.phase = .absorbing ∧ t.err = false ∧
      HoldsOpen (m ++ laneBytes s.dataIn cnt.toNat) t

/-- An accepted FINAL leaves blocks pending that take H to the SHA-256 chaining value of the message (40_commands R104,
41 R142). -/
def Obligations.FinalClosesMessage : Prop :=
  ∀ (m : List Byte) (s : State), busy s = false → s.err = false → s.phase = .absorbing → HoldsOpen m s →
    ∃ t, exec .final s = .next t ∧ t.phase = .finalizing ∧ t.err = false ∧ HoldsClosed m t

/-- The engine's turn never changes which message the block serves, and takes it to DONE when PENDING empties in FINALIZING
(41 R140, 60_exceptions R207). -/
def Obligations.EngineServesSameMessage : Prop :=
  ∀ (m : List Byte) (s : State), Serves m s →
    Serves m (engineStep s) ∧ (s.phase = .finalizing → (engineStep s).pending = [] → (engineStep s).phase = .done)

/-- Every step keeps the block in IDLE or serving some message of at most 2^61 - 1 bytes: in DONE the outputs are always
the SHA-256 of a message (41 R153, 60_exceptions R207, R218). -/
def Obligations.EveryStepServesSomeMessage : Prop :=
  ∀ s t : State, (s.phase = .idle ∨ ∃ m : List Byte, m.length ≤ 2 ^ 61 - 1 ∧ Serves m s) → step s = .next t →
    (t.phase = .idle ∨ ∃ m : List Byte, m.length ≤ 2 ^ 61 - 1 ∧ Serves m t)

/-- 41 R153: from any state with BUSY = 0, INIT, accepted ABSORBs of any counts, FINAL and the host's waits deliver the
SHA-256 of the absorbed bytes, whatever the order of the agents' turns, which the
model's schedule gives (log 2). -/
def Obligations.StreamedMessageDelivered : Prop :=
  ∀ (s : State) (groups : List (Nat × Word)) (m : List Byte), busy s = false →
    (∀ g, g ∈ groups → 1 ≤ g.1 ∧ g.1 ≤ 4) → m = (groups.map fun g => laneBytes g.2 g.1).flatten →
    m.length ≤ 2 ^ 61 - 1 →
    s.host = [issue (base s) .init] ++ (groups.map fun g => putOps (base s) g.1 g.2).flatten ++
      [issue (base s) .final] ++ waitOps (base s) →
    ∃ (n : Nat) (t : State), reachesIn n s t ∧ t.host = [] ∧ t.phase = .done ∧ t.pending = [] ∧ t.err = false ∧
      ∀ i : Fin 8, t.digest[i] = be32 (digestBytes (sha256 m)) (4 * i.val) ∧
        t.seed[i] = le32 (digestBytes (sha256 m)) (4 * i.val)

/-- 30_encoding R81: after KDF m the host has read STATUS 0x00000032 and the source's seed material for m (the turns are the
model's schedule's, log 2; the readings stand in `received`, log 10). -/
def Obligations.KdfReadsSeedMaterial : Prop :=
  ∀ (s : State) (m : List Byte), busy s = false → m.length ≤ 2 ^ 61 - 1 → s.host = kdfOps (base s) m →
    ∃ (n : Nat) (t : State) (seeds : List Word) (before : List Reading), reachesIn n s t ∧ t.host = [] ∧
      t.received =
        ((List.finRange 8).map fun i : Fin 8 => (⟨.readOnly (.seed i), seeds.getD i.val 0⟩ : Reading)).reverse ++
          ⟨.readOnly .status, 0x00000032#32⟩ :: before ∧
      seeds.map toInt32 = seedMaterial m

/-- 41 R154: two runs that absorb the same bytes, however split and whatever the lanes beyond each count, end with the same
DIGEST and SEED. -/
def Obligations.DigestIndependentOfSplit : Prop :=
  ∀ (s s' t t' : State) (groups groups' : List (Nat × Word)) (n n' : Nat), busy s = false → busy s' = false →
    (∀ g, g ∈ groups → 1 ≤ g.1 ∧ g.1 ≤ 4) → (∀ g, g ∈ groups' → 1 ≤ g.1 ∧ g.1 ≤ 4) →
    (groups.map fun g => laneBytes g.2 g.1).flatten = (groups'.map fun g => laneBytes g.2 g.1).flatten →
    (groups.map fun g => laneBytes g.2 g.1).flatten.length ≤ 2 ^ 61 - 1 →
    s.host = [issue (base s) .init] ++ (groups.map fun g => putOps (base s) g.1 g.2).flatten ++
      [issue (base s) .final] ++ waitOps (base s) →
    s'.host = [issue (base s') .init] ++ (groups'.map fun g => putOps (base s') g.1 g.2).flatten ++
      [issue (base s') .final] ++ waitOps (base s') →
    reachesIn n s t → reachesIn n' s' t' → t.host = [] → t'.host = [] → t.digest = t'.digest ∧ t.seed = t'.seed

/-- 70_reset R238: a WAIT loop ends, with BUSY = 0, within as many steps as the schedule has turns and PENDING has blocks,
and one more. The bound rests on the model's schedule (log 2). -/
def Obligations.WaitEnds : Prop :=
  ∀ (s : State) (rest : List HostOp), s.host = waitOps (base s) ++ rest →
    ∃ (n : Nat) (t : State), n ≤ s.schedule.length + s.pending.length + 1 ∧ reachesIn n s t ∧
      t.host = rest ∧ busy t = false

/-- 70_reset R239: the run of KDF m, which starts at its accepted INIT, ends without a protocol fault, with the seed words
of m in SEED, and its result, the eight values the host reads there, is the source's seed material of m. Where a run starts
and which STATUS reads are its own is the model's reading (log 13), and that it ends rests on the schedule (log 2). -/
def Obligations.KdfRunEndsWithoutFault : Prop :=
  ∀ (s : State) (m : List Byte), busy s = false → m.length ≤ 2 ^ 61 - 1 → s.host = kdfOps (base s) m →
    ∃ (n : Nat) (t : State) (result : Words8), endsRunAt s n t ∧ ¬ protocolFault s t ∧
      t.seed = seedWords (sha256 m) ∧ runResult t result ∧ result.toList.map toInt32 = seedMaterial m

/-! ### Invariants, writers and reset -/

/-- 10_state R43: every step keeps the invariants. -/
def Obligations.StepKeepsInvariant : Prop :=
  ∀ s t : State, Invariant s → step s = .next t → Invariant t

/-- 10_state R43, R44: the invariants hold at reset. -/
def Obligations.ResetMeetsInvariant : Prop := Invariant State.reset

/-- 10_state R23: INIT, FINAL, the engine step and reset change PHASE; nothing else does. -/
def Obligations.PhaseChangedOnlyByItsWriters : Prop :=
  ∀ s t : State, step s = .next t → t.phase ≠ s.phase →
    (nextAgent s = .host ∧ t.phase = .idle ∧ ∃ rest, s.host = .reset :: rest) ∨
    (nextAgent s = .host ∧ busy s = false ∧ ∃ a rest, s.host = .access a :: rest ∧
      ((decodeAccess (base s) a = .instr .init ∧ t.phase = .absorbing) ∨
       (decodeAccess (base s) a = .instr .final ∧ s.phase = .absorbing ∧ t.phase = .finalizing))) ∨
    (nextAgent s = .engine ∧ s.phase = .finalizing ∧ s.pending.length = 1 ∧ t.phase = .done)

/-- 10_state R28, R30: LEN changes only by an accepted ABSORB, INIT and reset; DATA_IN only by its write and reset. -/
def Obligations.LenAndDataInChangedOnlyByTheirWriters : Prop :=
  ∀ s t : State, step s = .next t →
    (t.len ≠ s.len → nextAgent s = .host ∧
      ((t.len = 0 ∧ ∃ rest, s.host = .reset :: rest) ∨
       ∃ a rest, s.host = .access a :: rest ∧ busy s = false ∧
        ((decodeAccess (base s) a = .instr .init ∧ t.len = 0) ∨
         (∃ cnt, decodeAccess (base s) a = .instr (.absorb cnt) ∧ s.phase = .absorbing ∧ s.err = false ∧
          t.len.toNat = s.len.toNat + cnt.toNat)))) ∧
    (t.dataIn ≠ s.dataIn → nextAgent s = .host ∧
      ((t.dataIn = 0 ∧ ∃ rest, s.host = .reset :: rest) ∨
       ∃ a rest, s.host = .access a :: rest ∧ decodeAccess (base s) a = .instr (.writeDataIn t.dataIn)))

/-- 10_state R26, R31: H changes only by INIT, the engine step and reset; SEED and DIGEST only by the engine step that
completes FINALIZING and by reset. -/
def Obligations.HashRegistersChangedOnlyByTheirWriters : Prop :=
  ∀ s t : State, step s = .next t →
    (t.h ≠ s.h →
      (nextAgent s = .engine ∧ s.pending ≠ []) ∨
      (nextAgent s = .host ∧ ((∃ rest, s.host = .reset :: rest) ∨
        ∃ a rest, s.host = .access a :: rest ∧ decodeAccess (base s) a = .instr .init ∧ busy s = false))) ∧
    (t.seed ≠ s.seed ∨ t.digest ≠ s.digest →
      (nextAgent s = .engine ∧ s.phase = .finalizing ∧ s.pending.length = 1 ∧ t.phase = .done) ∨
      (nextAgent s = .host ∧ ∃ rest, s.host = .reset :: rest))

/-- 70_reset R230: reset, asserted in any state, takes the block to the reset values of 10_state R44 and leaves the host's
own program and readings and BASE (the model's reading, log 16). -/
def Obligations.ResetSignalGivesResetValues : Prop :=
  ∀ (s : State) (rest : List HostOp), nextAgent s = .host → s.host = .reset :: rest →
    ∃ t, step s = .next t ∧ t.phase = .idle ∧ t.pending = [] ∧ t.err = false ∧ t.errCode = 0 ∧ t.len = 0 ∧
      t.bufCnt = 0 ∧ t.dataIn = 0 ∧ t.host = rest ∧ t.schedule = s.schedule.tail ∧ t.window = s.window ∧
      t.received = s.received

/-- 70_reset R231: after reset STATUS, LEN_LO, LEN_HI and DATA_IN read 0, and SEED and DIGEST read as draws, whose counter
is the model's (log 5). -/
def Obligations.ReadsAfterReset : Prop :=
  ∀ (s t : State), (t = State.reset ∨ t = resetSignal s) →
    exec .readStatus t = .next { t with received := ⟨.readOnly .status, 0x00000000#32⟩ :: t.received } ∧
    (∀ half, exec (.readLen half) t =
      .next { t with received := ⟨.readOnly (.len half), 0x00000000#32⟩ :: t.received }) ∧
    exec .readDataIn t = .next { t with received := ⟨.dataIn, 0x00000000#32⟩ :: t.received } ∧
    (∀ i : Fin 8,
      exec (.readSeed i) t = .next { t with received := ⟨.readOnly (.seed i), Config.draw t.draws⟩ :: t.received,
                                            draws := t.draws + 1 } ∧
      exec (.readDigest i) t = .next { t with received := ⟨.readOnly (.digest i), Config.draw t.draws⟩ :: t.received,
                                              draws := t.draws + 1 })

/-- 10_state R44: the values the spec gives the state after reset. -/
def Obligations.ResetStateFields : Prop :=
  State.reset.phase = .idle ∧ State.reset.pending = [] ∧ busy State.reset = false ∧ State.reset.err = false ∧
  State.reset.errCode = 0 ∧ State.reset.len = 0 ∧ State.reset.bufCnt = 0 ∧ State.reset.dataIn = 0 ∧
  statusWord State.reset = 0
end

