-- ==== Sys2Proof/Laws/Decode.lean ====
section
/-! SUPPORT. What decoding can answer (30_encoding R75, 20_memory R51, R52): one lemma per function, so that later proofs
do not unfold it. -/

namespace Sys2Proof

/-- A command word never decodes to a refusal (30_encoding R75). -/
theorem decodeCommand_ne_refused (v : Word) (r : NoStep) : decodeCommand v ≠ .refused r := by
  unfold decodeCommand; split_ifs <;> simp

/-- The instructions that a command word can decode to (30_encoding R74). -/
theorem decodeCommand_instr_cases {v : Word} {i : Instr} (h : decodeCommand v = .instr i) :
    i = .nop ∨ i = .init ∨ (i = .absorb (cntField v) ∧ countLegal (cntField v) = true) ∨ i = .final := by
  unfold decodeCommand at h
  split_ifs at h <;> cases h <;> simp_all

/-- The error codes that a command word can decode to (30_encoding R75, R76). -/
theorem decodeCommand_illegal_cases {v : Word} {e : ErrorCode} (h : decodeCommand v = .illegal e) :
    e = .illegalOpcode ∨ e = .reservedBits ∨ e = .badCount := by
  unfold decodeCommand at h
  split_ifs at h <;> cases h <;> simp

/-- The conditions under which an access reaches a register (20_memory R51). -/
theorem locate_ok {base addr width : Nat} {r : Reg} (h : locate base addr width = .ok r) :
    width = 4 ∧ base ≤ addr ∧ addr < base + Config.windowBytes ∧ (addr - base) % 4 = 0 ∧
      r = regAtIndex ((addr - base) / 4) := by
  unfold locate at h
  split_ifs at h with hw ho hm
  cases h
  exact ⟨by omega, by omega, by omega, by omega, rfl⟩

/-- An admitted access reaches the register at its word index (20_memory R51). -/
theorem locate_eq_ok {base addr : Nat} (lo : base ≤ addr) (hi : addr < base + Config.windowBytes)
    (aligned : (addr - base) % 4 = 0) : locate base addr 4 = .ok (regAtIndex ((addr - base) / 4)) := by
  unfold locate
  rw [if_neg (by decide), if_neg (by omega), if_neg (by omega)]

/-- A refused access is of another width, outside the window or misaligned (20_memory R52). -/
theorem locate_error {base addr width : Nat} {r : NoStep} (h : locate base addr width = .error r) :
    (r = .width ∧ width ≠ 4) ∨
      (r = .outside ∧ width = 4 ∧ (addr < base ∨ base + Config.windowBytes ≤ addr)) ∨
      (r = .misaligned ∧ width = 4 ∧ base ≤ addr ∧ addr < base + Config.windowBytes ∧ (addr - base) % 4 ≠ 0) := by
  unfold locate at h
  split_ifs at h with hw ho hm <;> cases h
  · exact .inl ⟨rfl, hw⟩
  · exact .inr (.inl ⟨rfl, by omega, ho⟩)
  · exact .inr (.inr ⟨rfl, by omega, by omega, by omega, hm⟩)

/-- A read decodes to the reading instruction of the register it reaches. -/
theorem decodeAccess_read_instr {base addr width : Nat} {i : Instr}
    (h : decodeAccess base (.read addr width) = .instr i) :
    ∃ r, locate base addr width = .ok r ∧ i = readInstr r := by
  simp only [decodeAccess] at h
  cases hl : locate base addr width <;> rw [hl] at h <;> cases h
  exact ⟨_, rfl, rfl⟩

/-- A write decodes as the register it reaches says. -/
theorem decodeAccess_write_instr {base addr width : Nat} {v : Word} {i : Instr}
    (h : decodeAccess base (.write addr width v) = .instr i) :
    ∃ r, locate base addr width = .ok r ∧ decodeWrite r v = .instr i := by
  simp only [decodeAccess] at h
  cases hl : locate base addr width <;> rw [hl] at h
  · cases h
  · exact ⟨_, rfl, h⟩

/-- Only a write to CMD decodes to an error code (40_commands R100). -/
theorem decodeAccess_illegal {base : Nat} {a : BusAccess} {e : ErrorCode} (h : decodeAccess base a = .illegal e) :
    ∃ addr v, a = .write addr 4 v ∧ locate base addr 4 = .ok .cmd ∧ decodeCommand v = .illegal e := by
  cases a with
  | read addr width => simp only [decodeAccess] at h; cases hl : locate base addr width <;> rw [hl] at h <;> cases h
  | write addr width v =>
    simp only [decodeAccess] at h
    cases hl : locate base addr width with
    | error r => rw [hl] at h; cases h
    | ok r =>
      rw [hl] at h
      obtain ⟨rfl, -⟩ := locate_ok hl
      cases r with
      | cmd => exact ⟨addr, v, rfl, hl, h⟩
      | dataIn => cases h
      | readOnly r => cases h
      | reserved r => cases h

/-- Only an access without a location is refused (20_memory R52). -/
theorem decodeAccess_refused {base : Nat} {a : BusAccess} {r : NoStep} (h : decodeAccess base a = .refused r) :
    ∃ addr width, ((∃ v, a = .write addr width v) ∨ a = .read addr width) ∧ locate base addr width = .error r := by
  cases a with
  | read addr width =>
    simp only [decodeAccess] at h
    cases hl : locate base addr width <;> rw [hl] at h <;> cases h
    exact ⟨addr, width, .inr rfl, hl⟩
  | write addr width v =>
    simp only [decodeAccess] at h
    cases hl : locate base addr width with
    | error r => rw [hl] at h; cases h; exact ⟨addr, width, .inl ⟨v, rfl⟩, hl⟩
    | ok q =>
      rw [hl] at h
      cases q with
      | cmd => exact absurd h (decodeCommand_ne_refused v r)
      | dataIn => cases h
      | readOnly r => cases h
      | reserved r => cases h

/-- The fields of a command word, as parts of its number (30_encoding R71 to R73). -/
theorem commandFields_toNat (v : Word) :
    (opcField v).toNat = v.toNat % 256 ∧ (cntField v).toNat = v.toNat / 256 % 8 ∧ (rsvField v).toNat = v.toNat / 2048 := by
  simp [opcField, cntField, rsvField, BitVec.extractLsb'_toNat, Nat.shiftRight_eq_div_pow]
  omega

/-- The legal counts are 1, 2, 3 and 4 (30_encoding R72). -/
theorem countLegal_iff (cnt : BitVec 3) : countLegal cnt = true ↔ 1 ≤ cnt.toNat ∧ cnt.toNat ≤ 4 := by
  revert cnt; decide

/-- The word index of a register's offset leads back to the register (10_state R32). -/
theorem regAtIndex_regOffset (r : Reg) : regAtIndex (regOffset r / 4) = r := by
  cases r with
  | cmd => rfl
  | dataIn => rfl
  | readOnly r =>
    cases r with
    | status => rfl
    | len half => cases half <;> rfl
    | seed i => revert i; decide
    | digest i => revert i; decide
  | reserved r =>
    cases r with
    | low i => revert i; decide
    | high i => revert i; decide

end Sys2Proof
end

