-- ==== Sys2Proof/Laws/State.lean ====
section
/-! SUPPORT. One lemma per field per named update of the state, so that no later proof unfolds an update. -/

namespace Sys2Proof.Machine

/-! ### `raiseError` (R202: only the error record changes) -/

@[simp] theorem raiseError_phase (e : ErrorCode) (s : State) : (raiseError e s).phase = s.phase := by unfold raiseError; split <;> rfl
@[simp] theorem raiseError_pending (e : ErrorCode) (s : State) : (raiseError e s).pending = s.pending := by unfold raiseError; split <;> rfl
@[simp] theorem raiseError_err (e : ErrorCode) (s : State) : (raiseError e s).err = true := by cases h : s.err <;> simp [raiseError, h]
@[simp] theorem raiseError_errCode (e : ErrorCode) (s : State) : (raiseError e s).errCode = if s.err then s.errCode else errorNumber e := by cases h : s.err <;> simp [raiseError, h]
@[simp] theorem raiseError_h (e : ErrorCode) (s : State) : (raiseError e s).h = s.h := by unfold raiseError; split <;> rfl
@[simp] theorem raiseError_buf (e : ErrorCode) (s : State) : (raiseError e s).buf = s.buf := by unfold raiseError; split <;> rfl
@[simp] theorem raiseError_bufCnt (e : ErrorCode) (s : State) : (raiseError e s).bufCnt = s.bufCnt := by unfold raiseError; split <;> rfl
@[simp] theorem raiseError_len (e : ErrorCode) (s : State) : (raiseError e s).len = s.len := by unfold raiseError; split <;> rfl
@[simp] theorem raiseError_dataIn (e : ErrorCode) (s : State) : (raiseError e s).dataIn = s.dataIn := by unfold raiseError; split <;> rfl
@[simp] theorem raiseError_seed (e : ErrorCode) (s : State) : (raiseError e s).seed = s.seed := by unfold raiseError; split <;> rfl
@[simp] theorem raiseError_digest (e : ErrorCode) (s : State) : (raiseError e s).digest = s.digest := by unfold raiseError; split <;> rfl
@[simp] theorem raiseError_window (e : ErrorCode) (s : State) : (raiseError e s).window = s.window := by unfold raiseError; split <;> rfl
@[simp] theorem raiseError_host (e : ErrorCode) (s : State) : (raiseError e s).host = s.host := by unfold raiseError; split <;> rfl
@[simp] theorem raiseError_schedule (e : ErrorCode) (s : State) : (raiseError e s).schedule = s.schedule := by unfold raiseError; split <;> rfl
@[simp] theorem raiseError_received (e : ErrorCode) (s : State) : (raiseError e s).received = s.received := by unfold raiseError; split <;> rfl
@[simp] theorem raiseError_draws (e : ErrorCode) (s : State) : (raiseError e s).draws = s.draws := by unfold raiseError; split <;> rfl

/-! ### `clearError` (R206) -/

@[simp] theorem clearError_phase (s : State) : (clearError s).phase = s.phase := rfl
@[simp] theorem clearError_pending (s : State) : (clearError s).pending = s.pending := rfl
@[simp] theorem clearError_err (s : State) : (clearError s).err = false := rfl
@[simp] theorem clearError_errCode (s : State) : (clearError s).errCode = 0 := rfl
@[simp] theorem clearError_h (s : State) : (clearError s).h = s.h := rfl
@[simp] theorem clearError_buf (s : State) : (clearError s).buf = s.buf := rfl
@[simp] theorem clearError_bufCnt (s : State) : (clearError s).bufCnt = s.bufCnt := rfl
@[simp] theorem clearError_len (s : State) : (clearError s).len = s.len := rfl
@[simp] theorem clearError_dataIn (s : State) : (clearError s).dataIn = s.dataIn := rfl
@[simp] theorem clearError_seed (s : State) : (clearError s).seed = s.seed := rfl
@[simp] theorem clearError_digest (s : State) : (clearError s).digest = s.digest := rfl
@[simp] theorem clearError_window (s : State) : (clearError s).window = s.window := rfl
@[simp] theorem clearError_host (s : State) : (clearError s).host = s.host := rfl
@[simp] theorem clearError_schedule (s : State) : (clearError s).schedule = s.schedule := rfl
@[simp] theorem clearError_received (s : State) : (clearError s).received = s.received := rfl
@[simp] theorem clearError_draws (s : State) : (clearError s).draws = s.draws := rfl

/-! ### `openMessage` (40_commands R102) -/

@[simp] theorem openMessage_phase (s : State) : (openMessage s).phase = .absorbing := rfl
@[simp] theorem openMessage_pending (s : State) : (openMessage s).pending = s.pending := rfl
@[simp] theorem openMessage_err (s : State) : (openMessage s).err = false := rfl
@[simp] theorem openMessage_errCode (s : State) : (openMessage s).errCode = 0 := rfl
@[simp] theorem openMessage_h (s : State) : (openMessage s).h = initialHash := rfl
@[simp] theorem openMessage_buf (s : State) : (openMessage s).buf = s.buf := rfl
@[simp] theorem openMessage_bufCnt (s : State) : (openMessage s).bufCnt = 0 := rfl
@[simp] theorem openMessage_len (s : State) : (openMessage s).len = 0 := rfl
@[simp] theorem openMessage_dataIn (s : State) : (openMessage s).dataIn = s.dataIn := rfl
@[simp] theorem openMessage_seed (s : State) : (openMessage s).seed = s.seed := rfl
@[simp] theorem openMessage_digest (s : State) : (openMessage s).digest = s.digest := rfl
@[simp] theorem openMessage_window (s : State) : (openMessage s).window = s.window := rfl
@[simp] theorem openMessage_host (s : State) : (openMessage s).host = s.host := rfl
@[simp] theorem openMessage_schedule (s : State) : (openMessage s).schedule = s.schedule := rfl
@[simp] theorem openMessage_received (s : State) : (openMessage s).received = s.received := rfl
@[simp] theorem openMessage_draws (s : State) : (openMessage s).draws = s.draws := rfl

/-! ### `appendByte` (one pass of the loop of 40_commands R103) -/

@[simp] theorem appendByte_phase (s : State) (b : Byte) : (appendByte s b).phase = s.phase := by unfold appendByte; dsimp only; split <;> rfl
@[simp] theorem appendByte_err (s : State) (b : Byte) : (appendByte s b).err = s.err := by unfold appendByte; dsimp only; split <;> rfl
@[simp] theorem appendByte_errCode (s : State) (b : Byte) : (appendByte s b).errCode = s.errCode := by unfold appendByte; dsimp only; split <;> rfl
@[simp] theorem appendByte_h (s : State) (b : Byte) : (appendByte s b).h = s.h := by unfold appendByte; dsimp only; split <;> rfl
@[simp] theorem appendByte_buf (s : State) (b : Byte) : (appendByte s b).buf = s.buf.set s.bufCnt.val b s.bufCnt.isLt := by unfold appendByte; dsimp only; split <;> rfl
@[simp] theorem appendByte_len (s : State) (b : Byte) : (appendByte s b).len = s.len := by unfold appendByte; dsimp only; split <;> rfl
@[simp] theorem appendByte_dataIn (s : State) (b : Byte) : (appendByte s b).dataIn = s.dataIn := by unfold appendByte; dsimp only; split <;> rfl
@[simp] theorem appendByte_seed (s : State) (b : Byte) : (appendByte s b).seed = s.seed := by unfold appendByte; dsimp only; split <;> rfl
@[simp] theorem appendByte_digest (s : State) (b : Byte) : (appendByte s b).digest = s.digest := by unfold appendByte; dsimp only; split <;> rfl
@[simp] theorem appendByte_window (s : State) (b : Byte) : (appendByte s b).window = s.window := by unfold appendByte; dsimp only; split <;> rfl
@[simp] theorem appendByte_host (s : State) (b : Byte) : (appendByte s b).host = s.host := by unfold appendByte; dsimp only; split <;> rfl
@[simp] theorem appendByte_schedule (s : State) (b : Byte) : (appendByte s b).schedule = s.schedule := by unfold appendByte; dsimp only; split <;> rfl
@[simp] theorem appendByte_received (s : State) (b : Byte) : (appendByte s b).received = s.received := by unfold appendByte; dsimp only; split <;> rfl
@[simp] theorem appendByte_draws (s : State) (b : Byte) : (appendByte s b).draws = s.draws := by unfold appendByte; dsimp only; split <;> rfl

/-! ### `countBytes` (40_commands R103) -/

@[simp] theorem countBytes_phase (n : Nat) (s : State) : (countBytes n s).phase = s.phase := rfl
@[simp] theorem countBytes_pending (n : Nat) (s : State) : (countBytes n s).pending = s.pending := rfl
@[simp] theorem countBytes_err (n : Nat) (s : State) : (countBytes n s).err = s.err := rfl
@[simp] theorem countBytes_errCode (n : Nat) (s : State) : (countBytes n s).errCode = s.errCode := rfl
@[simp] theorem countBytes_h (n : Nat) (s : State) : (countBytes n s).h = s.h := rfl
@[simp] theorem countBytes_buf (n : Nat) (s : State) : (countBytes n s).buf = s.buf := rfl
@[simp] theorem countBytes_bufCnt (n : Nat) (s : State) : (countBytes n s).bufCnt = s.bufCnt := rfl
@[simp] theorem countBytes_len (n : Nat) (s : State) : (countBytes n s).len = s.len + BitVec.ofNat 61 n := rfl
@[simp] theorem countBytes_dataIn (n : Nat) (s : State) : (countBytes n s).dataIn = s.dataIn := rfl
@[simp] theorem countBytes_seed (n : Nat) (s : State) : (countBytes n s).seed = s.seed := rfl
@[simp] theorem countBytes_digest (n : Nat) (s : State) : (countBytes n s).digest = s.digest := rfl
@[simp] theorem countBytes_window (n : Nat) (s : State) : (countBytes n s).window = s.window := rfl
@[simp] theorem countBytes_host (n : Nat) (s : State) : (countBytes n s).host = s.host := rfl
@[simp] theorem countBytes_schedule (n : Nat) (s : State) : (countBytes n s).schedule = s.schedule := rfl
@[simp] theorem countBytes_received (n : Nat) (s : State) : (countBytes n s).received = s.received := rfl
@[simp] theorem countBytes_draws (n : Nat) (s : State) : (countBytes n s).draws = s.draws := rfl

/-! ### `closeMessage` (40_commands R104) -/

@[simp] theorem closeMessage_phase (s : State) : (closeMessage s).phase = .finalizing := rfl
@[simp] theorem closeMessage_pending (s : State) : (closeMessage s).pending = s.pending ++ finalBlocks s := rfl
@[simp] theorem closeMessage_err (s : State) : (closeMessage s).err = s.err := rfl
@[simp] theorem closeMessage_errCode (s : State) : (closeMessage s).errCode = s.errCode := rfl
@[simp] theorem closeMessage_h (s : State) : (closeMessage s).h = s.h := rfl
@[simp] theorem closeMessage_buf (s : State) : (closeMessage s).buf = s.buf := rfl
@[simp] theorem closeMessage_bufCnt (s : State) : (closeMessage s).bufCnt = 0 := rfl
@[simp] theorem closeMessage_len (s : State) : (closeMessage s).len = s.len := rfl
@[simp] theorem closeMessage_dataIn (s : State) : (closeMessage s).dataIn = s.dataIn := rfl
@[simp] theorem closeMessage_seed (s : State) : (closeMessage s).seed = s.seed := rfl
@[simp] theorem closeMessage_digest (s : State) : (closeMessage s).digest = s.digest := rfl
@[simp] theorem closeMessage_window (s : State) : (closeMessage s).window = s.window := rfl
@[simp] theorem closeMessage_host (s : State) : (closeMessage s).host = s.host := rfl
@[simp] theorem closeMessage_schedule (s : State) : (closeMessage s).schedule = s.schedule := rfl
@[simp] theorem closeMessage_received (s : State) : (closeMessage s).received = s.received := rfl
@[simp] theorem closeMessage_draws (s : State) : (closeMessage s).draws = s.draws := rfl

/-! ### `setDataIn` (40_commands R105) -/

@[simp] theorem setDataIn_phase (v : Word) (s : State) : (setDataIn v s).phase = s.phase := rfl
@[simp] theorem setDataIn_pending (v : Word) (s : State) : (setDataIn v s).pending = s.pending := rfl
@[simp] theorem setDataIn_err (v : Word) (s : State) : (setDataIn v s).err = s.err := rfl
@[simp] theorem setDataIn_errCode (v : Word) (s : State) : (setDataIn v s).errCode = s.errCode := rfl
@[simp] theorem setDataIn_h (v : Word) (s : State) : (setDataIn v s).h = s.h := rfl
@[simp] theorem setDataIn_buf (v : Word) (s : State) : (setDataIn v s).buf = s.buf := rfl
@[simp] theorem setDataIn_bufCnt (v : Word) (s : State) : (setDataIn v s).bufCnt = s.bufCnt := rfl
@[simp] theorem setDataIn_len (v : Word) (s : State) : (setDataIn v s).len = s.len := rfl
@[simp] theorem setDataIn_dataIn (v : Word) (s : State) : (setDataIn v s).dataIn = v := rfl
@[simp] theorem setDataIn_seed (v : Word) (s : State) : (setDataIn v s).seed = s.seed := rfl
@[simp] theorem setDataIn_digest (v : Word) (s : State) : (setDataIn v s).digest = s.digest := rfl
@[simp] theorem setDataIn_window (v : Word) (s : State) : (setDataIn v s).window = s.window := rfl
@[simp] theorem setDataIn_host (v : Word) (s : State) : (setDataIn v s).host = s.host := rfl
@[simp] theorem setDataIn_schedule (v : Word) (s : State) : (setDataIn v s).schedule = s.schedule := rfl
@[simp] theorem setDataIn_received (v : Word) (s : State) : (setDataIn v s).received = s.received := rfl
@[simp] theorem setDataIn_draws (v : Word) (s : State) : (setDataIn v s).draws = s.draws := rfl

/-! ### `receive` (00_scope R12) -/

@[simp] theorem receive_phase (r : Reg) (v : Word) (s : State) : (receive r v s).phase = s.phase := rfl
@[simp] theorem receive_pending (r : Reg) (v : Word) (s : State) : (receive r v s).pending = s.pending := rfl
@[simp] theorem receive_err (r : Reg) (v : Word) (s : State) : (receive r v s).err = s.err := rfl
@[simp] theorem receive_errCode (r : Reg) (v : Word) (s : State) : (receive r v s).errCode = s.errCode := rfl
@[simp] theorem receive_h (r : Reg) (v : Word) (s : State) : (receive r v s).h = s.h := rfl
@[simp] theorem receive_buf (r : Reg) (v : Word) (s : State) : (receive r v s).buf = s.buf := rfl
@[simp] theorem receive_bufCnt (r : Reg) (v : Word) (s : State) : (receive r v s).bufCnt = s.bufCnt := rfl
@[simp] theorem receive_len (r : Reg) (v : Word) (s : State) : (receive r v s).len = s.len := rfl
@[simp] theorem receive_dataIn (r : Reg) (v : Word) (s : State) : (receive r v s).dataIn = s.dataIn := rfl
@[simp] theorem receive_seed (r : Reg) (v : Word) (s : State) : (receive r v s).seed = s.seed := rfl
@[simp] theorem receive_digest (r : Reg) (v : Word) (s : State) : (receive r v s).digest = s.digest := rfl
@[simp] theorem receive_window (r : Reg) (v : Word) (s : State) : (receive r v s).window = s.window := rfl
@[simp] theorem receive_host (r : Reg) (v : Word) (s : State) : (receive r v s).host = s.host := rfl
@[simp] theorem receive_schedule (r : Reg) (v : Word) (s : State) : (receive r v s).schedule = s.schedule := rfl
@[simp] theorem receive_received (r : Reg) (v : Word) (s : State) : (receive r v s).received = ⟨r, v⟩ :: s.received := rfl
@[simp] theorem receive_draws (r : Reg) (v : Word) (s : State) : (receive r v s).draws = s.draws := rfl

/-! ### `receiveDraw` (00_scope R16) -/

@[simp] theorem receiveDraw_phase (r : Reg) (s : State) : (receiveDraw r s).phase = s.phase := rfl
@[simp] theorem receiveDraw_pending (r : Reg) (s : State) : (receiveDraw r s).pending = s.pending := rfl
@[simp] theorem receiveDraw_err (r : Reg) (s : State) : (receiveDraw r s).err = s.err := rfl
@[simp] theorem receiveDraw_errCode (r : Reg) (s : State) : (receiveDraw r s).errCode = s.errCode := rfl
@[simp] theorem receiveDraw_h (r : Reg) (s : State) : (receiveDraw r s).h = s.h := rfl
@[simp] theorem receiveDraw_buf (r : Reg) (s : State) : (receiveDraw r s).buf = s.buf := rfl
@[simp] theorem receiveDraw_bufCnt (r : Reg) (s : State) : (receiveDraw r s).bufCnt = s.bufCnt := rfl
@[simp] theorem receiveDraw_len (r : Reg) (s : State) : (receiveDraw r s).len = s.len := rfl
@[simp] theorem receiveDraw_dataIn (r : Reg) (s : State) : (receiveDraw r s).dataIn = s.dataIn := rfl
@[simp] theorem receiveDraw_seed (r : Reg) (s : State) : (receiveDraw r s).seed = s.seed := rfl
@[simp] theorem receiveDraw_digest (r : Reg) (s : State) : (receiveDraw r s).digest = s.digest := rfl
@[simp] theorem receiveDraw_window (r : Reg) (s : State) : (receiveDraw r s).window = s.window := rfl
@[simp] theorem receiveDraw_host (r : Reg) (s : State) : (receiveDraw r s).host = s.host := rfl
@[simp] theorem receiveDraw_schedule (r : Reg) (s : State) : (receiveDraw r s).schedule = s.schedule := rfl
@[simp] theorem receiveDraw_received (r : Reg) (s : State) : (receiveDraw r s).received = ⟨r, Config.draw s.draws⟩ :: s.received := rfl
@[simp] theorem receiveDraw_draws (r : Reg) (s : State) : (receiveDraw r s).draws = s.draws + 1 := rfl

/-! ### `resetSignal` (70_reset R230) -/

@[simp] theorem resetSignal_phase (s : State) : (resetSignal s).phase = .idle := rfl
@[simp] theorem resetSignal_pending (s : State) : (resetSignal s).pending = [] := rfl
@[simp] theorem resetSignal_err (s : State) : (resetSignal s).err = false := rfl
@[simp] theorem resetSignal_errCode (s : State) : (resetSignal s).errCode = 0 := rfl
@[simp] theorem resetSignal_h (s : State) : (resetSignal s).h = unspecifiedWords s.draws 0 := rfl
@[simp] theorem resetSignal_buf (s : State) : (resetSignal s).buf = unspecifiedBuffer s.draws := rfl
@[simp] theorem resetSignal_bufCnt (s : State) : (resetSignal s).bufCnt = 0 := rfl
@[simp] theorem resetSignal_len (s : State) : (resetSignal s).len = 0 := rfl
@[simp] theorem resetSignal_dataIn (s : State) : (resetSignal s).dataIn = 0 := rfl
@[simp] theorem resetSignal_seed (s : State) : (resetSignal s).seed = unspecifiedWords s.draws 8 := rfl
@[simp] theorem resetSignal_digest (s : State) : (resetSignal s).digest = unspecifiedWords s.draws 16 := rfl
@[simp] theorem resetSignal_window (s : State) : (resetSignal s).window = s.window := rfl
@[simp] theorem resetSignal_host (s : State) : (resetSignal s).host = s.host := rfl
@[simp] theorem resetSignal_schedule (s : State) : (resetSignal s).schedule = s.schedule := rfl
@[simp] theorem resetSignal_received (s : State) : (resetSignal s).received = s.received := rfl
@[simp] theorem resetSignal_draws (s : State) : (resetSignal s).draws = s.draws + 1 := rfl

/-! ### `deliverDigest` (41 R140) -/

@[simp] theorem deliverDigest_phase (s : State) : (deliverDigest s).phase = .done := rfl
@[simp] theorem deliverDigest_pending (s : State) : (deliverDigest s).pending = s.pending := rfl
@[simp] theorem deliverDigest_err (s : State) : (deliverDigest s).err = s.err := rfl
@[simp] theorem deliverDigest_errCode (s : State) : (deliverDigest s).errCode = s.errCode := rfl
@[simp] theorem deliverDigest_h (s : State) : (deliverDigest s).h = s.h := rfl
@[simp] theorem deliverDigest_buf (s : State) : (deliverDigest s).buf = s.buf := rfl
@[simp] theorem deliverDigest_bufCnt (s : State) : (deliverDigest s).bufCnt = s.bufCnt := rfl
@[simp] theorem deliverDigest_len (s : State) : (deliverDigest s).len = s.len := rfl
@[simp] theorem deliverDigest_dataIn (s : State) : (deliverDigest s).dataIn = s.dataIn := rfl
@[simp] theorem deliverDigest_seed (s : State) : (deliverDigest s).seed = seedWords s.h := rfl
@[simp] theorem deliverDigest_digest (s : State) : (deliverDigest s).digest = s.h := rfl
@[simp] theorem deliverDigest_window (s : State) : (deliverDigest s).window = s.window := rfl
@[simp] theorem deliverDigest_host (s : State) : (deliverDigest s).host = s.host := rfl
@[simp] theorem deliverDigest_schedule (s : State) : (deliverDigest s).schedule = s.schedule := rfl
@[simp] theorem deliverDigest_received (s : State) : (deliverDigest s).received = s.received := rfl
@[simp] theorem deliverDigest_draws (s : State) : (deliverDigest s).draws = s.draws := rfl

/-! ### `compressHead` (41 R140) -/

@[simp] theorem compressHead_phase (b : Block) (rest : List Block) (s : State) : (compressHead b rest s).phase = s.phase := rfl
@[simp] theorem compressHead_pending (b : Block) (rest : List Block) (s : State) : (compressHead b rest s).pending = rest := rfl
@[simp] theorem compressHead_err (b : Block) (rest : List Block) (s : State) : (compressHead b rest s).err = s.err := rfl
@[simp] theorem compressHead_errCode (b : Block) (rest : List Block) (s : State) : (compressHead b rest s).errCode = s.errCode := rfl
@[simp] theorem compressHead_h (b : Block) (rest : List Block) (s : State) : (compressHead b rest s).h = compress s.h b := rfl
@[simp] theorem compressHead_buf (b : Block) (rest : List Block) (s : State) : (compressHead b rest s).buf = s.buf := rfl
@[simp] theorem compressHead_bufCnt (b : Block) (rest : List Block) (s : State) : (compressHead b rest s).bufCnt = s.bufCnt := rfl
@[simp] theorem compressHead_len (b : Block) (rest : List Block) (s : State) : (compressHead b rest s).len = s.len := rfl
@[simp] theorem compressHead_dataIn (b : Block) (rest : List Block) (s : State) : (compressHead b rest s).dataIn = s.dataIn := rfl
@[simp] theorem compressHead_seed (b : Block) (rest : List Block) (s : State) : (compressHead b rest s).seed = s.seed := rfl
@[simp] theorem compressHead_digest (b : Block) (rest : List Block) (s : State) : (compressHead b rest s).digest = s.digest := rfl
@[simp] theorem compressHead_window (b : Block) (rest : List Block) (s : State) : (compressHead b rest s).window = s.window := rfl
@[simp] theorem compressHead_host (b : Block) (rest : List Block) (s : State) : (compressHead b rest s).host = s.host := rfl
@[simp] theorem compressHead_schedule (b : Block) (rest : List Block) (s : State) : (compressHead b rest s).schedule = s.schedule := rfl
@[simp] theorem compressHead_received (b : Block) (rest : List Block) (s : State) : (compressHead b rest s).received = s.received := rfl
@[simp] theorem compressHead_draws (b : Block) (rest : List Block) (s : State) : (compressHead b rest s).draws = s.draws := rfl

/-! ### `popTurn` (the taken turn) -/

@[simp] theorem popTurn_phase (s : State) : (popTurn s).phase = s.phase := rfl
@[simp] theorem popTurn_pending (s : State) : (popTurn s).pending = s.pending := rfl
@[simp] theorem popTurn_err (s : State) : (popTurn s).err = s.err := rfl
@[simp] theorem popTurn_errCode (s : State) : (popTurn s).errCode = s.errCode := rfl
@[simp] theorem popTurn_h (s : State) : (popTurn s).h = s.h := rfl
@[simp] theorem popTurn_buf (s : State) : (popTurn s).buf = s.buf := rfl
@[simp] theorem popTurn_bufCnt (s : State) : (popTurn s).bufCnt = s.bufCnt := rfl
@[simp] theorem popTurn_len (s : State) : (popTurn s).len = s.len := rfl
@[simp] theorem popTurn_dataIn (s : State) : (popTurn s).dataIn = s.dataIn := rfl
@[simp] theorem popTurn_seed (s : State) : (popTurn s).seed = s.seed := rfl
@[simp] theorem popTurn_digest (s : State) : (popTurn s).digest = s.digest := rfl
@[simp] theorem popTurn_window (s : State) : (popTurn s).window = s.window := rfl
@[simp] theorem popTurn_host (s : State) : (popTurn s).host = s.host := rfl
@[simp] theorem popTurn_schedule (s : State) : (popTurn s).schedule = s.schedule.tail := rfl
@[simp] theorem popTurn_received (s : State) : (popTurn s).received = s.received := rfl
@[simp] theorem popTurn_draws (s : State) : (popTurn s).draws = s.draws := rfl

/-! ### `issueNext` (the placed access) -/

@[simp] theorem issueNext_phase (a : BusAccess) (s : State) : (issueNext a s).phase = s.phase := rfl
@[simp] theorem issueNext_pending (a : BusAccess) (s : State) : (issueNext a s).pending = s.pending := rfl
@[simp] theorem issueNext_err (a : BusAccess) (s : State) : (issueNext a s).err = s.err := rfl
@[simp] theorem issueNext_errCode (a : BusAccess) (s : State) : (issueNext a s).errCode = s.errCode := rfl
@[simp] theorem issueNext_h (a : BusAccess) (s : State) : (issueNext a s).h = s.h := rfl
@[simp] theorem issueNext_buf (a : BusAccess) (s : State) : (issueNext a s).buf = s.buf := rfl
@[simp] theorem issueNext_bufCnt (a : BusAccess) (s : State) : (issueNext a s).bufCnt = s.bufCnt := rfl
@[simp] theorem issueNext_len (a : BusAccess) (s : State) : (issueNext a s).len = s.len := rfl
@[simp] theorem issueNext_dataIn (a : BusAccess) (s : State) : (issueNext a s).dataIn = s.dataIn := rfl
@[simp] theorem issueNext_seed (a : BusAccess) (s : State) : (issueNext a s).seed = s.seed := rfl
@[simp] theorem issueNext_digest (a : BusAccess) (s : State) : (issueNext a s).digest = s.digest := rfl
@[simp] theorem issueNext_window (a : BusAccess) (s : State) : (issueNext a s).window = s.window := rfl
@[simp] theorem issueNext_host (a : BusAccess) (s : State) : (issueNext a s).host = .access a :: s.host := rfl
@[simp] theorem issueNext_schedule (a : BusAccess) (s : State) : (issueNext a s).schedule = .host :: s.schedule := rfl
@[simp] theorem issueNext_received (a : BusAccess) (s : State) : (issueNext a s).received = s.received := rfl
@[simp] theorem issueNext_draws (a : BusAccess) (s : State) : (issueNext a s).draws = s.draws := rfl

/-! ### `appendBytes` (40_commands R103): the fields the loop never writes -/

@[simp] theorem appendBytes_phase (bs : List Byte) (s : State) : (appendBytes bs s).phase = s.phase := by
  induction bs generalizing s with
  | nil => rfl
  | cons b bs ih => exact (ih (appendByte s b)).trans (appendByte_phase s b)
@[simp] theorem appendBytes_err (bs : List Byte) (s : State) : (appendBytes bs s).err = s.err := by
  induction bs generalizing s with
  | nil => rfl
  | cons b bs ih => exact (ih (appendByte s b)).trans (appendByte_err s b)
@[simp] theorem appendBytes_errCode (bs : List Byte) (s : State) : (appendBytes bs s).errCode = s.errCode := by
  induction bs generalizing s with
  | nil => rfl
  | cons b bs ih => exact (ih (appendByte s b)).trans (appendByte_errCode s b)
@[simp] theorem appendBytes_h (bs : List Byte) (s : State) : (appendBytes bs s).h = s.h := by
  induction bs generalizing s with
  | nil => rfl
  | cons b bs ih => exact (ih (appendByte s b)).trans (appendByte_h s b)
@[simp] theorem appendBytes_len (bs : List Byte) (s : State) : (appendBytes bs s).len = s.len := by
  induction bs generalizing s with
  | nil => rfl
  | cons b bs ih => exact (ih (appendByte s b)).trans (appendByte_len s b)
@[simp] theorem appendBytes_dataIn (bs : List Byte) (s : State) : (appendBytes bs s).dataIn = s.dataIn := by
  induction bs generalizing s with
  | nil => rfl
  | cons b bs ih => exact (ih (appendByte s b)).trans (appendByte_dataIn s b)
@[simp] theorem appendBytes_seed (bs : List Byte) (s : State) : (appendBytes bs s).seed = s.seed := by
  induction bs generalizing s with
  | nil => rfl
  | cons b bs ih => exact (ih (appendByte s b)).trans (appendByte_seed s b)
@[simp] theorem appendBytes_digest (bs : List Byte) (s : State) : (appendBytes bs s).digest = s.digest := by
  induction bs generalizing s with
  | nil => rfl
  | cons b bs ih => exact (ih (appendByte s b)).trans (appendByte_digest s b)
@[simp] theorem appendBytes_window (bs : List Byte) (s : State) : (appendBytes bs s).window = s.window := by
  induction bs generalizing s with
  | nil => rfl
  | cons b bs ih => exact (ih (appendByte s b)).trans (appendByte_window s b)
@[simp] theorem appendBytes_host (bs : List Byte) (s : State) : (appendBytes bs s).host = s.host := by
  induction bs generalizing s with
  | nil => rfl
  | cons b bs ih => exact (ih (appendByte s b)).trans (appendByte_host s b)
@[simp] theorem appendBytes_schedule (bs : List Byte) (s : State) : (appendBytes bs s).schedule = s.schedule := by
  induction bs generalizing s with
  | nil => rfl
  | cons b bs ih => exact (ih (appendByte s b)).trans (appendByte_schedule s b)
@[simp] theorem appendBytes_received (bs : List Byte) (s : State) : (appendBytes bs s).received = s.received := by
  induction bs generalizing s with
  | nil => rfl
  | cons b bs ih => exact (ih (appendByte s b)).trans (appendByte_received s b)
@[simp] theorem appendBytes_draws (bs : List Byte) (s : State) : (appendBytes bs s).draws = s.draws := by
  induction bs generalizing s with
  | nil => rfl
  | cons b bs ih => exact (ih (appendByte s b)).trans (appendByte_draws s b)

/-! ### `receiveOutput` (40_commands R109, R110): a read leaves the block as it is -/

@[simp] theorem receiveOutput_phase (r : Reg) (v : Word) (s : State) : (receiveOutput r v s).phase = s.phase := by
  unfold receiveOutput; split <;> rfl
@[simp] theorem receiveOutput_pending (r : Reg) (v : Word) (s : State) : (receiveOutput r v s).pending = s.pending := by
  unfold receiveOutput; split <;> rfl
@[simp] theorem receiveOutput_err (r : Reg) (v : Word) (s : State) : (receiveOutput r v s).err = s.err := by
  unfold receiveOutput; split <;> rfl
@[simp] theorem receiveOutput_errCode (r : Reg) (v : Word) (s : State) : (receiveOutput r v s).errCode = s.errCode := by
  unfold receiveOutput; split <;> rfl
@[simp] theorem receiveOutput_h (r : Reg) (v : Word) (s : State) : (receiveOutput r v s).h = s.h := by
  unfold receiveOutput; split <;> rfl
@[simp] theorem receiveOutput_buf (r : Reg) (v : Word) (s : State) : (receiveOutput r v s).buf = s.buf := by
  unfold receiveOutput; split <;> rfl
@[simp] theorem receiveOutput_bufCnt (r : Reg) (v : Word) (s : State) : (receiveOutput r v s).bufCnt = s.bufCnt := by
  unfold receiveOutput; split <;> rfl
@[simp] theorem receiveOutput_len (r : Reg) (v : Word) (s : State) : (receiveOutput r v s).len = s.len := by
  unfold receiveOutput; split <;> rfl
@[simp] theorem receiveOutput_dataIn (r : Reg) (v : Word) (s : State) : (receiveOutput r v s).dataIn = s.dataIn := by
  unfold receiveOutput; split <;> rfl
@[simp] theorem receiveOutput_seed (r : Reg) (v : Word) (s : State) : (receiveOutput r v s).seed = s.seed := by
  unfold receiveOutput; split <;> rfl
@[simp] theorem receiveOutput_digest (r : Reg) (v : Word) (s : State) : (receiveOutput r v s).digest = s.digest := by
  unfold receiveOutput; split <;> rfl
@[simp] theorem receiveOutput_window (r : Reg) (v : Word) (s : State) : (receiveOutput r v s).window = s.window := by
  unfold receiveOutput; split <;> rfl
@[simp] theorem receiveOutput_host (r : Reg) (v : Word) (s : State) : (receiveOutput r v s).host = s.host := by
  unfold receiveOutput; split <;> rfl
@[simp] theorem receiveOutput_schedule (r : Reg) (v : Word) (s : State) : (receiveOutput r v s).schedule = s.schedule := by
  unfold receiveOutput; split <;> rfl

end Sys2Proof.Machine
end

