-- ==== Sys2Proof/Laws/Ops.lean ====
section
/-! SUPPORT. For each shared operation, once, everything it can do. -/

namespace Sys2Proof.Machine

/-- BUSY = 0 says that nothing is pending (10_state R24). -/
theorem busy_eq_false {s : State} : busy s = false ↔ s.pending = [] := by
  unfold busy; cases s.pending <;> simp

/-- BUSY = 1 says that a block is pending (10_state R24). -/
theorem busy_eq_true {s : State} : busy s = true ↔ s.pending ≠ [] := by
  unfold busy; cases s.pending <;> simp

/-- `raise Error` keeps a recorded error, and records the code otherwise (60_exceptions R202, R210). -/
theorem raiseError_cases (e : ErrorCode) (s : State) :
    (s.err = true ∧ raiseError e s = s) ∨
      (s.err = false ∧ raiseError e s = { s with err := true, errCode := errorNumber e }) := by
  unfold raiseError; cases h : s.err <;> simp

/-- A command is a BUSY_VIOLATION while BUSY = 1 and its body otherwise (40_commands R100). -/
theorem commandGate_cases (body : State → State) (s : State) :
    (busy s = true ∧ commandGate body s = raiseError .busyViolation s) ∨
      (busy s = false ∧ commandGate body s = body s) := by
  unfold commandGate; cases h : busy s <;> simp

/-- ABSORB and FINAL behind the command gate: dropped, a SEQUENCE error, or accepted (60_exceptions R203, R205). -/
theorem messageGate_cases (body : State → State) (s : State) :
    (s.err = true ∧ messageGate body s = s) ∨
      (s.err = false ∧ s.phase ≠ .absorbing ∧ messageGate body s = raiseError .sequence s) ∨
      (s.err = false ∧ s.phase = .absorbing ∧ messageGate body s = body s) := by
  unfold messageGate
  cases h : s.err <;> cases hp : s.phase <;> simp

/-- An ABSORB that reaches its length check overflows or appends and counts (40_commands R103). -/
theorem absorbBytes_cases (n : Nat) (s : State) :
    (Config.maxMsgBytes < s.len.toNat + n ∧ absorbBytes n s = raiseError .lengthOverflow s) ∨
      (s.len.toNat + n ≤ Config.maxMsgBytes ∧
        absorbBytes n s = countBytes n (appendBytes (laneBytes s.dataIn n) s)) := by
  unfold absorbBytes; split
  · exact .inl ⟨‹_›, rfl⟩
  · exact .inr ⟨by omega, rfl⟩

/-- One appended byte fills the buffer and queues it, or lengthens its valid part (40_commands R103). -/
theorem appendByte_cases (s : State) (b : Byte) :
    (s.bufCnt.val = 63 ∧ appendByte s b =
        { s with buf := s.buf.set s.bufCnt.val b s.bufCnt.isLt, bufCnt := 0,
                 pending := s.pending ++ [s.buf.set s.bufCnt.val b s.bufCnt.isLt] }) ∨
      (s.bufCnt.val < 63 ∧ appendByte s b =
        { s with buf := s.buf.set s.bufCnt.val b s.bufCnt.isLt, bufCnt := s.bufCnt + 1 }) := by
  have := s.bufCnt.isLt
  unfold appendByte; dsimp only
  split
  · exact .inl ⟨by omega, rfl⟩
  · exact .inr ⟨by omega, rfl⟩

/-- A read of an output register returns the stored word in DONE and a draw otherwise (40_commands R109, R110). -/
theorem receiveOutput_cases (r : Reg) (v : Word) (s : State) :
    (s.phase = .done ∧ receiveOutput r v s = receive r v s) ∨
      (s.phase ≠ .done ∧ receiveOutput r v s = receiveDraw r s) := by
  unfold receiveOutput; split
  · exact .inl ⟨‹_›, rfl⟩
  · exact .inr ⟨‹_›, rfl⟩

/-- The engine's turn: nothing pending and nothing done, a block compressed with more to do or with no message closed, or
the last block of a closed message compressed and the digest delivered (41 R140). -/
theorem engineStep_cases (s : State) :
    (s.pending = [] ∧ engineStep s = s) ∨
      (∃ b rest, s.pending = b :: rest ∧ (rest ≠ [] ∨ s.phase ≠ .finalizing) ∧
        engineStep s = compressHead b rest s) ∨
      (∃ b, s.pending = [b] ∧ s.phase = .finalizing ∧ engineStep s = deliverDigest (compressHead b [] s)) := by
  unfold engineStep
  match hp : s.pending with
  | [] => exact .inl ⟨rfl, rfl⟩
  | [b] =>
    by_cases h : s.phase = .finalizing
    · exact .inr (.inr ⟨b, rfl, h, by simp [h]⟩)
    · exact .inr (.inl ⟨b, [], rfl, .inr h, by simp [h]⟩)
  | b :: c :: rest => exact .inr (.inl ⟨b, c :: rest, rfl, .inl (by simp), by simp⟩)

/-- One appended byte lengthens the valid bytes by itself, or completes a pending block of them (40_commands R103). -/
theorem appendByte_validBytes (s : State) (b : Byte) :
    (s.bufCnt.val < 63 → (appendByte s b).pending = s.pending ∧ (appendByte s b).bufCnt.val = s.bufCnt.val + 1 ∧
       validBytes (appendByte s b) = validBytes s ++ [b]) ∧
    (s.bufCnt.val = 63 → ∃ blk : Block, (appendByte s b).pending = s.pending ++ [blk] ∧ (appendByte s b).bufCnt.val = 0 ∧
       blk.toList = validBytes s ++ [b] ∧ validBytes (appendByte s b) = []) := by
  have hset : ((s.buf.set s.bufCnt.val b s.bufCnt.isLt).toList.take (s.bufCnt.val + 1)) = validBytes s ++ [b] := by
    unfold validBytes
    rw [Vector.toList_set]
    apply List.ext_getElem
    · simp
    · intro i h1 h2
      simp at h1 
      simp [List.getElem_take, List.getElem_set, List.getElem_append]
      split <;> split <;> first | rfl | omega
  constructor
  · intro h
    rcases appendByte_cases s b with ⟨h1,_⟩|⟨_,h2⟩
    · omega
    · rw [h2]
      have hv : (s.bufCnt + 1).val = s.bufCnt.val + 1 := by
        rw [Fin.val_add]; simp; omega
      refine ⟨rfl, hv, ?_⟩
      show (s.buf.set s.bufCnt.val b s.bufCnt.isLt).toList.take (s.bufCnt + 1).val = _
      rw [hv, hset]
  · intro h
    rcases appendByte_cases s b with ⟨_,h2⟩|⟨h1,_⟩
    · rw [h2]
      refine ⟨_, rfl, rfl, ?_, rfl⟩
      rw [← hset, List.take_of_length_le]
      simp; omega
    · omega

/-- ABSORB's loop over at most four bytes: the valid bytes grow by them, or the block that fills and the valid bytes left
are together the old valid bytes and them (40_commands R103). -/
theorem appendBytes_validBytes (bs : List Byte) : ∀ (s : State), bs.length ≤ 4 → 
    (s.bufCnt.val + bs.length < 64 → (appendBytes bs s).pending = s.pending ∧ (appendBytes bs s).bufCnt.val = s.bufCnt.val + bs.length ∧
       validBytes (appendBytes bs s) = validBytes s ++ bs) ∧
    (64 ≤ s.bufCnt.val + bs.length → ∃ blk : Block, (appendBytes bs s).pending = s.pending ++ [blk] ∧ (appendBytes bs s).bufCnt.val = s.bufCnt.val + bs.length - 64 ∧
       blk.toList ++ validBytes (appendBytes bs s) = validBytes s ++ bs) := by
  induction bs with
  | nil => intro s _; have := s.bufCnt.isLt; exact ⟨fun _ => ⟨rfl, rfl, by simp [appendBytes]⟩, fun h => by simp at h; omega⟩
  | cons b bs ih =>
    intro s hl
    simp only [List.length_cons] at hl ⊢
    have hst : appendBytes (b :: bs) s = appendBytes bs (appendByte s b) := rfl
    rw [hst]
    obtain ⟨i1, i2⟩ := ih (appendByte s b) (by omega)
    obtain ⟨a1, a2⟩ := appendByte_validBytes s b
    have := s.bufCnt.isLt
    by_cases h : s.bufCnt.val < 63
    · obtain ⟨p1, p2, p3⟩ := a1 h
      rw [p2, p3, p1] at i1 i2
      constructor
      · intro hh; obtain ⟨q1,q2,q3⟩ := i1 (by omega); exact ⟨q1, by omega, by rw [q3]; simp⟩
      · intro hh; obtain ⟨blk,q1,q2,q3⟩ := i2 (by omega); exact ⟨blk, q1, by omega, by rw [q3]; simp⟩
    · obtain ⟨blk, p1, p2, p3, p4⟩ := a2 (by omega)
      rw [p2, p4, p1] at i1
      constructor
      · intro hh; omega
      · intro hh; obtain ⟨q1,q2,q3⟩ := i1 (by omega); exact ⟨blk, q1, by omega, by rw [q3, p3]; simp⟩

/-- ABSORB takes as many bytes as its count says (30_encoding R78). -/
theorem laneBytes_length (w : Word) (n : Nat) : (laneBytes w n).length = n := by simp [laneBytes]

/-- The padding's length is that of one block or of two (41 R142). -/
theorem pad_length (t : List Byte) (l : Nat) (h : t.length ≤ 63) : (pad t l).length = if t.length ≤ 55 then 64 else 128 := by
  simp only [pad, padZeros, be64, List.length_append, List.length_replicate, List.length_map, List.length_range, List.length_cons, List.length_nil]
  split <;> omega

/-- The bytes of a block made from a long enough string. -/
theorem toBlock_toList (s : List Byte) (h : 64 ≤ s.length) : (toBlock s).toList = s.take 64 := by
  apply List.ext_getElem
  · simp; omega
  · intro i h1 h2
    simp at h1
    simp [toBlock, byteAt]
    rw [List.getElem?_eq_getElem (by omega)]; rfl

/-- FINAL queues one block when BUFCNT ≤ 55 and two otherwise (40_commands R104). -/
theorem finalBlocks_length (s : State) : (finalBlocks s).length = if s.bufCnt.val ≤ 55 then 1 else 2 := by
  have hlen : (validBytes s).length = s.bufCnt.val := by simp [validBytes]
  have := s.bufCnt.isLt
  have hpl := pad_length (validBytes s) s.len.toNat (by omega)
  unfold finalBlocks; dsimp only; rw [hpl, hlen]; split <;> simp

end Sys2Proof.Machine
end

