-- ==== Sys2Proof/Laws/PerInstr.lean ====
section
/-! SUPPORT. Statements about every instruction as syntax, one lemma per constructor. -/

namespace Sys2Proof.Laws.EncodesWord

/-- The access that encodes an instruction is a 4-byte access at a 4-byte-aligned offset of the window (20_memory R51). -/
def Statement (i : Instr) : Prop :=
  ∀ base : Nat, ∃ off : Nat, off < Config.windowBytes ∧ off % 4 = 0 ∧
    (encode base i = .read (base + off) 4 ∨ ∃ v, encode base i = .write (base + off) 4 v)

/-- Every register lies at a 4-byte-aligned offset of the window (10_state R32). -/
theorem regOffset_in_window (r : Reg) : regOffset r < Config.windowBytes ∧ regOffset r % 4 = 0 := by
  cases r with
  | cmd => decide
  | dataIn => decide
  | readOnly r =>
    cases r with
    | status => decide
    | len half => cases half <;> decide
    | seed i => revert i; decide
    | digest i => revert i; decide
  | reserved r =>
    cases r with
    | low i => revert i; decide
    | high i => revert i; decide

theorem nop : Statement .nop := fun _ => ⟨_, (regOffset_in_window .cmd).1, (regOffset_in_window .cmd).2, .inr ⟨_, rfl⟩⟩
theorem init : Statement .init := fun _ => ⟨_, (regOffset_in_window .cmd).1, (regOffset_in_window .cmd).2, .inr ⟨_, rfl⟩⟩
theorem absorb (cnt : BitVec 3) : Statement (.absorb cnt) :=
  fun _ => ⟨_, (regOffset_in_window .cmd).1, (regOffset_in_window .cmd).2, .inr ⟨_, rfl⟩⟩
theorem final : Statement .final := fun _ => ⟨_, (regOffset_in_window .cmd).1, (regOffset_in_window .cmd).2, .inr ⟨_, rfl⟩⟩
theorem writeDataIn (v : Word) : Statement (.writeDataIn v) :=
  fun _ => ⟨_, (regOffset_in_window .dataIn).1, (regOffset_in_window .dataIn).2, .inr ⟨_, rfl⟩⟩
theorem readDataIn : Statement .readDataIn :=
  fun _ => ⟨_, (regOffset_in_window .dataIn).1, (regOffset_in_window .dataIn).2, .inl rfl⟩
theorem readStatus : Statement .readStatus :=
  fun _ => ⟨_, (regOffset_in_window (.readOnly .status)).1, (regOffset_in_window (.readOnly .status)).2, .inl rfl⟩
theorem readLen (half : LenHalf) : Statement (.readLen half) :=
  fun _ => ⟨_, (regOffset_in_window (.readOnly (.len half))).1, (regOffset_in_window (.readOnly (.len half))).2, .inl rfl⟩
theorem readSeed (i : Fin 8) : Statement (.readSeed i) :=
  fun _ => ⟨_, (regOffset_in_window (.readOnly (.seed i))).1, (regOffset_in_window (.readOnly (.seed i))).2, .inl rfl⟩
theorem readDigest (i : Fin 8) : Statement (.readDigest i) :=
  fun _ => ⟨_, (regOffset_in_window (.readOnly (.digest i))).1, (regOffset_in_window (.readOnly (.digest i))).2, .inl rfl⟩
theorem readCmd : Statement .readCmd :=
  fun _ => ⟨_, (regOffset_in_window .cmd).1, (regOffset_in_window .cmd).2, .inl rfl⟩
theorem writeReadOnly (r : ReadOnlyReg) (v : Word) : Statement (.writeReadOnly r v) :=
  fun _ => ⟨_, (regOffset_in_window (.readOnly r)).1, (regOffset_in_window (.readOnly r)).2, .inr ⟨_, rfl⟩⟩
theorem accessReserved (r : ReservedReg) (a : RegAccess) : Statement (.accessReserved r a) :=
  fun _ => ⟨_, (regOffset_in_window (.reserved r)).1, (regOffset_in_window (.reserved r)).2,
    match a with
    | .read => .inl rfl
    | .write _ => .inr ⟨_, rfl⟩⟩

end Sys2Proof.Laws.EncodesWord
end

