-- ==== Sys2Proof/Laws/Step.lean ====
section
/-! SUPPORT. What one bus access, one host turn and one step can do. -/

namespace Sys2Proof.Machine

/-- A bus access runs the instruction it decodes to, records a decode error, or has no step (40_commands R100,
20_memory R52). -/
theorem hostAccess_cases (a : BusAccess) (s : State) :
    (∃ i, decodeAccess (base s) a = .instr i ∧ hostAccess a s = exec i s) ∨
      (∃ e, decodeAccess (base s) a = .illegal e ∧ hostAccess a s = .next (rejectCommand e s)) ∨
      (∃ r, decodeAccess (base s) a = .refused r ∧ hostAccess a s = .refused (refusalOf r)) := by
  unfold hostAccess
  cases decodeAccess (base s) a with
  | instr i => exact .inl ⟨i, rfl, rfl⟩
  | illegal e => exact .inr (.inl ⟨e, rfl, rfl⟩)
  | refused r => exact .inr (.inr ⟨r, rfl, rfl⟩)

/-- What one instruction can do to the state, once and for all thirteen: nothing, the record of an error, the effect of an
accepted command, a write of DATA_IN, or a value read (40_commands R100 to R113). -/
inductive ExecEffect (i : Instr) (s : State) : State → Prop
  | unchanged : ExecEffect i s s
  | raised (e : ErrorCode) : ExecEffect i s (raiseError e s)
  | opened (hi : i = .init) (idle : busy s = false) : ExecEffect i s (openMessage s)
  | absorbed (cnt : BitVec 3) (hi : i = .absorb cnt) (idle : busy s = false) (ok : s.err = false)
      (phase : s.phase = .absorbing) (legal : countLegal cnt = true)
      (fits : s.len.toNat + cnt.toNat ≤ Config.maxMsgBytes) :
      ExecEffect i s (countBytes cnt.toNat (appendBytes (laneBytes s.dataIn cnt.toNat) s))
  | closed (hi : i = .final) (idle : busy s = false) (ok : s.err = false) (phase : s.phase = .absorbing) :
      ExecEffect i s (closeMessage s)
  | stored (v : Word) (hi : i = .writeDataIn v) : ExecEffect i s (setDataIn v s)
  | read (r : Reg) (v : Word) : ExecEffect i s (receive r v s)
  | drawn (r : Reg) (phase : s.phase ≠ .done) : ExecEffect i s (receiveDraw r s)

/-- A command behind the gate: rejected while BUSY = 1, its body's effect otherwise (40_commands R100). -/
theorem ExecEffect.ofGate {i : Instr} {s : State} {body : State → State}
    (h : busy s = false → ExecEffect i s (body s)) : ExecEffect i s (commandGate body s) := by
  rcases commandGate_cases body s with ⟨-, he⟩ | ⟨hb, he⟩ <;> rw [he]
  · exact .raised _
  · exact h hb

/-- ABSORB and FINAL behind both gates (60_exceptions R205). -/
theorem ExecEffect.ofMessageGate {i : Instr} {s : State} {body : State → State}
    (h : s.err = false → s.phase = .absorbing → ExecEffect i s (body s)) : ExecEffect i s (messageGate body s) := by
  rcases messageGate_cases body s with ⟨-, he⟩ | ⟨-, -, he⟩ | ⟨hk, hp, he⟩ <;> rw [he]
  · exact .unchanged
  · exact .raised _
  · exact h hk hp

/-- A read of an output register (40_commands R109, R110). -/
theorem ExecEffect.ofOutput {i : Instr} (r : Reg) (v : Word) (s : State) : ExecEffect i s (receiveOutput r v s) := by
  rcases receiveOutput_cases r v s with ⟨-, he⟩ | ⟨hp, he⟩ <;> rw [he]
  · exact .read r v
  · exact .drawn r hp

/-- Every instruction has one of these effects. -/
theorem exec_effect {i : Instr} {s t : State} (h : exec i s = .next t) : ExecEffect i s t := by
  cases i with
  | nop => cases h; exact .ofGate fun _ => .unchanged
  | init => cases h; exact .ofGate fun hb => .opened rfl hb
  | absorb cnt =>
    simp only [exec, execAbsorb] at h
    split at h <;> cases h
    · refine .ofGate fun hb => .ofMessageGate fun he hp => ?_
      rcases absorbBytes_cases cnt.toNat s with ⟨-, ha⟩ | ⟨fits, ha⟩ <;> rw [ha]
      · exact .raised _
      · exact .absorbed cnt rfl hb he hp ‹_› fits
    · exact .ofGate fun _ => .raised _
  | final => cases h; exact .ofGate fun hb => .ofMessageGate fun he hp => .closed rfl hb he hp
  | writeDataIn v => cases h; exact .stored v rfl
  | readDataIn => cases h; exact .read _ _
  | readStatus => cases h; exact .read _ _
  | readLen half => cases h; exact .read _ _
  | readSeed k => cases h; exact .ofOutput _ _ _
  | readDigest k => cases h; exact .ofOutput _ _ _
  | readCmd => cases h; exact .read _ _
  | writeReadOnly r v => cases h; exact .unchanged
  | accessReserved r a => cases a <;> cases h <;> first | exact .read _ _ | exact .unchanged

/-- A bus access with a next state has the effect of the instruction it decodes to, or records an error. -/
theorem hostAccess_effect {a : BusAccess} {s t : State} (h : hostAccess a s = .next t) :
    (∃ i, decodeAccess (base s) a = .instr i ∧ ExecEffect i s t) ∨ ∃ e, t = raiseError e s := by
  rcases hostAccess_cases a s with ⟨i, hd, he⟩ | ⟨e, -, he⟩ | ⟨r, -, he⟩ <;> rw [he] at h
  · exact .inl ⟨i, hd, exec_effect h⟩
  · cases h
    rcases commandGate_cases (raiseError e) s with ⟨-, hg⟩ | ⟨-, hg⟩
    · exact .inr ⟨_, hg⟩
    · exact .inr ⟨_, hg⟩
  · cases h

/-- A read with a next state only adds to what the host has received (20_memory R59). -/
theorem hostAccess_read_effect {addr width : Nat} {s t : State} (h : hostAccess (.read addr width) s = .next t) :
    t = s ∨ (∃ r v, t = receive r v s) ∨ ∃ r, s.phase ≠ .done ∧ t = receiveDraw r s := by
  rcases hostAccess_cases (.read addr width) s with ⟨i, hd, he⟩ | ⟨e, hd, -⟩ | ⟨r, -, he⟩
  · rw [he] at h
    obtain ⟨r, -, rfl⟩ := decodeAccess_read_instr hd
    match r with
    | .cmd => cases h; exact .inr (.inl ⟨_, _, rfl⟩)
    | .dataIn => cases h; exact .inr (.inl ⟨_, _, rfl⟩)
    | .readOnly .status => cases h; exact .inr (.inl ⟨_, _, rfl⟩)
    | .readOnly (.len half) => cases h; exact .inr (.inl ⟨_, _, rfl⟩)
    | .readOnly (.seed k) =>
      cases h
      rcases receiveOutput_cases (.readOnly (.seed k)) s.seed[k] s with ⟨-, e⟩ | ⟨hp, e⟩ <;> rw [e]
      · exact .inr (.inl ⟨_, _, rfl⟩)
      · exact .inr (.inr ⟨_, hp, rfl⟩)
    | .readOnly (.digest k) =>
      cases h
      rcases receiveOutput_cases (.readOnly (.digest k)) s.digest[k] s with ⟨-, e⟩ | ⟨hp, e⟩ <;> rw [e]
      · exact .inr (.inl ⟨_, _, rfl⟩)
      · exact .inr (.inr ⟨_, hp, rfl⟩)
    | .reserved r => cases h; exact .inr (.inl ⟨_, _, rfl⟩)
  · obtain ⟨_, _, h1, -⟩ := decodeAccess_illegal hd
    cases h1
  · rw [he] at h; cases h

/-- A poll that answers a next state has read, and has left the host at its next operation exactly when the value read
satisfied it (30_encoding R79). -/
theorem hostPoll_next {addr : Nat} {mask value : Word} {rest : List HostOp} {s t : State}
    (h : hostPoll addr mask value rest s = .next t) :
    ∃ u, hostAccess (.read addr 4) s = .next u ∧
      ((pollSatisfied mask value u = true ∧ t = { u with host := rest }) ∨
        (pollSatisfied mask value u = false ∧ t = u)) := by
  unfold hostPoll at h
  cases ha : hostAccess (.read addr 4) s with
  | next u =>
    rw [ha] at h
    cases hp : pollSatisfied mask value u <;> simp [hp] at h
    · exact ⟨u, rfl, .inr ⟨hp, h.symm⟩⟩
    · exact ⟨u, rfl, .inl ⟨hp, h.symm⟩⟩
  | fault r => exact nomatch r
  | refused r => rw [ha] at h; cases h

/-- A host turn that answers a next state: nothing to do, an access, a poll or a reset (00_scope R13, 30_encoding R79). -/
theorem hostTurn_next {s t : State} (h : hostTurn s = .next t) :
    (s.host = [] ∧ t = s) ∨
      (∃ a rest, s.host = .access a :: rest ∧ hostAccess a { s with host := rest } = .next t) ∨
      (∃ addr mask value rest, s.host = .poll addr mask value :: rest ∧ hostPoll addr mask value rest s = .next t) ∨
      (∃ rest, s.host = .reset :: rest ∧ t = resetSignal { s with host := rest }) := by
  unfold hostTurn at h
  match hh : s.host with
  | [] => rw [hh] at h; cases h; exact .inl ⟨rfl, rfl⟩
  | .access a :: rest => rw [hh] at h; exact .inr (.inl ⟨a, rest, rfl, h⟩)
  | .poll addr mask value :: rest => rw [hh] at h; exact .inr (.inr (.inl ⟨addr, mask, value, rest, rfl, h⟩))
  | .reset :: rest => rw [hh] at h; cases h; exact .inr (.inr (.inr ⟨rest, rfl, rfl⟩))

/-- A step is a turn of the host or of the engine (00_scope R13). -/
theorem step_next {s t : State} (h : step s = .next t) :
    (nextAgent s = .host ∧ hostTurn (popTurn s) = .next t) ∨
      (nextAgent s = .engine ∧ t = engineStep (popTurn s)) := by
  unfold step takeTurn at h
  cases ha : nextAgent s <;> rw [ha] at h
  · exact .inl ⟨rfl, h⟩
  · cases h; exact .inr ⟨rfl, rfl⟩

/-- What one step can do, once and for all: the engine's turn, a host turn with nothing to do, an instruction, the record
of a decode error, one read of a poll, or reset. -/
inductive StepEffect (s : State) : State → Prop
  | engine (turn : nextAgent s = .engine) : StepEffect s (engineStep (popTurn s))
  | idle (turn : nextAgent s = .host) : StepEffect s (popTurn s)
  | instr (turn : nextAgent s = .host) (a : BusAccess) (rest : List HostOp) (i : Instr) (t : State)
      (op : s.host = .access a :: rest) (decoded : decodeAccess (base s) a = .instr i)
      (effect : ExecEffect i { popTurn s with host := rest } t) : StepEffect s t
  | decodeError (turn : nextAgent s = .host) (a : BusAccess) (rest : List HostOp) (e : ErrorCode)
      (op : s.host = .access a :: rest) : StepEffect s (raiseError e { popTurn s with host := rest })
  | poll (turn : nextAgent s = .host) (addr : Nat) (mask value : Word) (rest : List HostOp)
      (op : s.host = .poll addr mask value :: rest) (u t : State)
      (reading : u = popTurn s ∨ (∃ r v, u = receive r v (popTurn s)) ∨
        ∃ r, s.phase ≠ .done ∧ u = receiveDraw r (popTurn s))
      (goes : t = u ∨ t = { u with host := rest }) : StepEffect s t
  | reset (turn : nextAgent s = .host) (rest : List HostOp) (op : s.host = .reset :: rest) :
      StepEffect s (resetSignal { popTurn s with host := rest })

/-- Every step has one of these effects. -/
theorem step_effect {s t : State} (h : step s = .next t) : StepEffect s t := by
  rcases step_next h with ⟨ha, h⟩ | ⟨ha, rfl⟩
  · rcases hostTurn_next h with ⟨-, rfl⟩ | ⟨a, rest, hh, h⟩ | ⟨addr, mask, value, rest, hh, h⟩ | ⟨rest, hh, rfl⟩
    · exact .idle ha
    · rcases hostAccess_effect h with ⟨i, hd, he⟩ | ⟨e, rfl⟩
      · exact .instr ha a rest i t hh hd he
      · exact .decodeError ha a rest e hh
    · obtain ⟨u, hu, h⟩ := hostPoll_next h
      refine .poll ha addr mask value rest hh u t (hostAccess_read_effect hu) ?_
      rcases h with ⟨-, h⟩ | ⟨-, h⟩
      · exact .inr h
      · exact .inl h
    · exact .reset ha rest hh
  · exact .engine ha

end Sys2Proof.Machine
end

