-- ==== Sys2Proof/Laws/Run.lean ====
section
/-! SUPPORT. Runs of several steps: the basic facts about `reachesIn`, and what a run's start and result need. -/

namespace Sys2Proof.Machine

/-- One more step at the front of a run. -/
theorem reachesIn_succ {n : Nat} {s u t : State} (first : step s = .next u) (rest : reachesIn n u t) :
    reachesIn (n + 1) s t := ⟨u, first, rest⟩

/-- Two runs, one after the other. -/
theorem reachesIn_trans {n k : Nat} {s u t : State} (first : reachesIn n s u) (second : reachesIn k u t) :
    reachesIn (n + k) s t := by
  induction n generalizing s with
  | zero => cases first; rw [Nat.zero_add]; exact second
  | succ n ih =>
    obtain ⟨v, hs, hv⟩ := first
    rw [Nat.add_right_comm]
    exact reachesIn_succ hs (ih hv)

/-- A run of a given length ends in one state: the step is a function. -/
theorem reachesIn_unique {n : Nat} {s t u : State} (ht : reachesIn n s t) (hu : reachesIn n s u) : t = u := by
  induction n generalizing s with
  | zero => cases ht; cases hu; rfl
  | succ n ih =>
    obtain ⟨a, ha, hat⟩ := ht
    obtain ⟨b, hb, hbu⟩ := hu
    rw [ha] at hb
    cases hb
    exact ih hat hbu

/-- The rest of a longer run goes on from the end of a shorter one. -/
theorem reachesIn_split {n k : Nat} {s t u : State} (short : reachesIn n s t) (long : reachesIn k s u) (le : n ≤ k) :
    reachesIn (k - n) t u := by
  induction n generalizing s k with
  | zero => cases short; exact long
  | succ n ih =>
    obtain ⟨a, ha, hat⟩ := short
    obtain ⟨j, rfl⟩ : ∃ j, k = j + 1 := ⟨k - 1, by omega⟩
    obtain ⟨b, hb, hbu⟩ := long
    rw [ha] at hb
    cases hb
    rw [Nat.add_sub_add_right]
    exact ih hat hbu (by omega)

/-- In DONE the result of a run is what SEED holds (40_commands R109). -/
theorem runResult_of_done {t : State} (done : t.phase = .done) : runResult t t.seed := by
  intro i
  have bank : (regOffset (.readOnly (.seed i)) < Config.windowBytes ∧ regOffset (.readOnly (.seed i)) % 4 = 0) := by
    revert i; decide
  have decoded : decodeAccess (base t) (encode (base t) (.readSeed i)) = .instr (.readSeed i) := by
    simp only [encode, decodeAccess]
    rw [locate_eq_ok (by omega) (by omega) (by rw [Nat.add_sub_cancel_left]; exact bank.2), Nat.add_sub_cancel_left,
      regAtIndex_regOffset]
    rfl
  refine ⟨receive (.readOnly (.seed i)) t.seed[i] t, ?_, rfl⟩
  unfold hostAccess
  rw [decoded]
  show execReadSeed i t = _
  unfold execReadSeed receiveOutput
  rw [if_pos done]

/-- A run has at most one result: a read answers one value. -/
theorem runResult_unique {t : State} {x y : Words8} (hx : runResult t x) (hy : runResult t y) : x = y := by
  refine Vector.ext fun i hi => ?_
  obtain ⟨u, hu, ru⟩ := hx ⟨i, hi⟩
  obtain ⟨v, hv, rv⟩ := hy ⟨i, hi⟩
  rw [hu] at hv
  cases hv
  rw [ru] at rv
  simpa using rv

end Sys2Proof.Machine
end

