-- ==== Sys2Proof/Tests/Slice0.lean ====
section
/-! SUPPORT. The model's own tests: ill-formed terms refused, words written out from the encoding tables, the vectors of
95_test_vectors, one step each on small states, and for every statement with hypotheses a state that meets them. -/

namespace Sys2Proof.Tests

open Sys2Proof.Machine

/-! ### Helpers -/

/-- The next state, when there is one. -/
def after : Host.Outcome State Fault Refusal → Option State
  | .next t => some t
  | .fault _ => none
  | .refused _ => none

/-- The state after one step, when there is one. -/
def afterStep (s : State) : Option State := after (step s)

/-- The state after `n` steps, when there is one. -/
def afterSteps : Nat → State → Option State
  | 0, s => some s
  | n + 1, s => (afterStep s).bind (afterSteps n)

/-- In ABSORBING, holding the message `m` of fewer than 64 bytes. -/
def holding (m : List Byte) : State :=
  { State.reset with phase := .absorbing, h := initialHash, buf := toBlock m, bufCnt := Fin.ofNat 64 m.length,
                     len := BitVec.ofNat 61 m.length }

/-- In ABSORBING with a number in LEN and its remainder in BUFCNT, the bytes all 'a'. -/
def counting (n : Nat) : State :=
  { State.reset with phase := .absorbing, h := initialHash, buf := Vector.replicate 64 0x61, bufCnt := Fin.ofNat 64 n,
                     len := BitVec.ofNat 61 n, dataIn := 0x61616161 }

/-- A state with one block pending. -/
def withPending (s : State) : State := { s with pending := [Vector.replicate 64 0x61] }

/-- A state with an error recorded. -/
def withError (code : BitVec 3) (s : State) : State := { s with err := true, errCode := code }

/-- In FINALIZING, the one block of the message "abc" pending. -/
def closedAbc : State := closeMessage (holding [0x61, 0x62, 0x63])

/-- In DONE with the outputs of a chaining value. -/
def doneWith (h : Words8) : State :=
  { State.reset with phase := .done, h := h, digest := h, seed := seedWords h }

/-- The state whose host still has these operations, at its turn. -/
def hosting (ops : List HostOp) (s : State) : State := { s with host := ops }

/-- STATUS, LEN and BUFCNT after an instruction. -/
def summary (i : Instr) (s : State) : Option (Word × Nat × Nat) :=
  (after (exec i s)).map fun t => (statusWord t, t.len.toNat, t.bufCnt.val)

/-- What the host reads by an instruction. -/
def reads (i : Instr) (s : State) : Option Word :=
  (after (exec i s)).bind fun t => (t.received.head?).map fun r => r.value

/-! ### Well-formedness (30_encoding R72) -/

theorem test_absorb_zero_ill_formed : wellFormed (.absorb 0) = false := by decide
theorem test_absorb_five_ill_formed : wellFormed (.absorb 5) = false := by decide
theorem test_absorb_seven_ill_formed : wellFormed (.absorb 7) = false := by decide
theorem test_absorb_four_well_formed : wellFormed (.absorb 4) = true := by decide

/-! ### Decoding: words written out from 30_encoding R70 and R74, RSV then CNT then OPC -/

theorem test_decode_nop : decodeCommand 0b000000000000000000000_000_00000000#32 = .instr .nop := by decide
theorem test_decode_init : decodeCommand 0b000000000000000000000_000_00000001#32 = .instr .init := by decide
theorem test_decode_absorb_1 : decodeCommand 0b000000000000000000000_001_00000010#32 = .instr (.absorb 1) := by decide
theorem test_decode_absorb_4 : decodeCommand 0b000000000000000000000_100_00000010#32 = .instr (.absorb 4) := by decide
theorem test_decode_final : decodeCommand 0b000000000000000000000_000_00000011#32 = .instr .final := by decide
theorem test_decode_all_ones : decodeCommand 0xFFFFFFFF#32 = .illegal .illegalOpcode := by decide
theorem test_decode_final_with_count : decodeCommand 0x00000103#32 = .illegal .reservedBits := by decide
theorem test_decode_bit_11 : decodeCommand 0x00000800#32 = .illegal .reservedBits := by decide
theorem test_decode_count_7 : decodeCommand 0x00000702#32 = .illegal .badCount := by decide
theorem test_table_word_absorb_3 : decodeTableWord 32 0x00000302 = some (.absorb 3) := by decide
theorem test_table_word_final : decodeTableWord 8 0x03 = some .final := by decide
theorem test_table_word_illegal : decodeTableWord 32 0x00000004 = none := by decide

/-! Bus accesses to the window at 0x4000_0080, at the offsets of 10_state R32. -/

theorem test_decode_write_data_in :
    decodeAccess 0x40000080 (.write 0x40000088 4 0x61616161) = .instr (.writeDataIn 0x61616161) := by decide
theorem test_decode_read_data_in : decodeAccess 0x40000080 (.read 0x40000088 4) = .instr .readDataIn := by decide
theorem test_decode_read_status : decodeAccess 0x40000080 (.read 0x40000084 4) = .instr .readStatus := by decide
theorem test_decode_read_len_lo : decodeAccess 0x40000080 (.read 0x4000008C 4) = .instr (.readLen .lo) := by decide
theorem test_decode_read_len_hi : decodeAccess 0x40000080 (.read 0x40000090 4) = .instr (.readLen .hi) := by decide
theorem test_decode_read_seed_7 : decodeAccess 0x40000080 (.read 0x400000BC 4) = .instr (.readSeed 7) := by decide
theorem test_decode_read_digest_0 : decodeAccess 0x40000080 (.read 0x400000C0 4) = .instr (.readDigest 0) := by decide
theorem test_decode_read_cmd : decodeAccess 0x40000080 (.read 0x40000080 4) = .instr .readCmd := by decide
theorem test_decode_write_status :
    decodeAccess 0x40000080 (.write 0x40000084 4 0xFFFFFFFF) = .instr (.writeReadOnly .status 0xFFFFFFFF) := by decide
theorem test_decode_write_digest_7 :
    decodeAccess 0x40000080 (.write 0x400000DC 4 0) = .instr (.writeReadOnly (.digest 7) 0) := by decide
theorem test_decode_reserved_low :
    decodeAccess 0x40000080 (.write 0x40000098 4 0xDEADBEEF) = .instr (.accessReserved (.low 1) (.write 0xDEADBEEF)) := by
  decide
theorem test_decode_reserved_high :
    decodeAccess 0x40000080 (.read 0x400000FC 4) = .instr (.accessReserved (.high 7) .read) := by decide
theorem test_decode_half_word_refused : decodeAccess 0 (.read 0x04 2) = .refused .width := by decide
theorem test_decode_misaligned_refused : decodeAccess 0 (.read 0x06 4) = .refused .misaligned := by decide
theorem test_decode_past_window_refused : decodeAccess 0 (.read 0x80 4) = .refused .outside := by decide
theorem test_decode_before_window_refused : decodeAccess 0x80 (.write 0x7C 4 0) = .refused .outside := by decide

/-! ### Word primitives and padding (95_test_vectors 2.1, 2.2) -/

theorem test_rotr : rotr 0x12345678 8 = 0x78123456#32 ∧ rotr 0x00000001 1 = 0x80000000#32 := by decide
theorem test_ch : ch 0xAAAAAAAA 0xCCCCCCCC 0xF0F0F0F0 = 0xD8D8D8D8#32 := by decide
theorem test_maj : maj 0xAAAAAAAA 0xCCCCCCCC 0xF0F0F0F0 = 0xE8E8E8E8#32 := by decide
theorem test_big_sigmas : bigSigma0 1 = 0x40080400#32 ∧ bigSigma1 1 = 0x04200080#32 := by decide
theorem test_small_sigmas : smallSigma0 0x80000000 = 0x11002000#32 ∧ smallSigma1 0xFFFFFFFF = 0x003FFFFF#32 := by decide
theorem test_bswap32 : bswap32 0x6A09E667 = 0x67E6096A#32 := by decide
theorem test_le32_be32 :
    le32 [0xe3, 0xb0, 0xc4, 0x42] 0 = 0x42C4B0E3#32 ∧ be32 [0xe3, 0xb0, 0xc4, 0x42] 0 = 0xE3B0C442#32 := by decide
theorem test_pad_abc :
    pad [0x61, 0x62, 0x63] 3 =
      [0x61, 0x62, 0x63, 0x80] ++ List.replicate 52 0x00 ++ [0, 0, 0, 0, 0, 0, 0, 0x18] := by decide
theorem test_pad_56 :
    pad (List.replicate 56 0x61) 56 =
      List.replicate 56 0x61 ++ [0x80] ++ List.replicate 63 0x00 ++ [0, 0, 0, 0, 0, 0, 0x01, 0xc0] := by decide
theorem test_toInt32 : toInt32 0x81D0869F = -2117040481 ∧ toInt32 0x657D4C88 = 1702710408 := by decide

/-! ### SHA-256 (95_test_vectors 2.3, 2.4) -/

theorem test_schedule_abc :
    ((messageSchedule (toBlock (pad [0x61, 0x62, 0x63] 3))).drop 16).take 4 =
      [0x61626380#32, 0x000F0000#32, 0x7DA86405#32, 0x600003C6#32] := by decide +kernel
theorem test_sha256_abc :
    sha256 [0x61, 0x62, 0x63] =
      #v[0xBA7816BF, 0x8F01CFEA, 0x414140DE, 0x5DAE2223, 0xB00361A3, 0x96177A9C, 0xB410FF61, 0xF20015AD] := by
  decide +kernel
theorem test_sha256_empty :
    sha256 [] =
      #v[0xE3B0C442, 0x98FC1C14, 0x9AFBF4C8, 0x996FB924, 0x27AE41E4, 0x649B934C, 0xA495991B, 0x7852B855] := by
  decide +kernel
theorem test_sha256_120 :
    sha256 (List.replicate 120 0x61) =
      #v[0x2F3D3354, 0x32C70B58, 0x0AF0E8E1, 0xB3674A7C, 0x020D683A, 0xA5F73AAA, 0xEDFDC55A, 0xF904C21C] := by
  decide +kernel
theorem test_seed_material_test :
    seedMaterial [0x74, 0x65, 0x73, 0x74] =
      [-2117040481, 1702710408, -1595265126, 365976261, 458211235, 746720043, 359423441, 134934704] := by
  decide +kernel

/-! ### One step of each instruction (95_test_vectors 2.5 to 2.7) -/

theorem test_nop_keeps_error : summary .nop (withError 5 State.reset) = some (0x00000504, 0, 0) := by decide
theorem test_nop_while_busy : summary .nop (withPending (counting 64)) = some (0x00000115, 64, 0) := by decide
theorem test_init_from_error : summary .init (withError 5 State.reset) = some (0x00000010, 0, 0) := by decide
theorem test_init_from_done : summary .init (doneWith initialHash) = some (0x00000010, 0, 0) := by decide
theorem test_absorb_across_block : summary (.absorb 4) (counting 63) = some (0x00000011, 67, 3) := by decide
theorem test_absorb_overflow : summary (.absorb 2) (counting (2 ^ 61 - 2)) = some (0x00000614, 2 ^ 61 - 2, 62) := by decide
theorem test_final_abc : summary .final (holding [0x61, 0x62, 0x63]) = some (0x00000021, 3, 0) := by decide
theorem test_final_in_done : summary .final (doneWith initialHash) = some (0x00000536, 0, 0) := by decide
theorem test_write_then_read_data_in :
    ((after (exec (.writeDataIn 0x12345678) (withPending (counting 64)))).bind (reads .readDataIn)) = some 0x12345678 := by
  decide
theorem test_read_data_in_reset : reads .readDataIn State.reset = some 0 := by decide
theorem test_read_status_done_with_error : reads .readStatus (withError 1 (doneWith initialHash)) = some 0x00000136 := by
  decide
theorem test_read_len_lo : reads (.readLen .lo) (counting (2 ^ 32 + 5)) = some 5 := by decide
theorem test_read_len_hi : reads (.readLen .hi) (counting (2 ^ 61 - 1)) = some 0x1FFFFFFF := by decide
theorem test_read_seed_in_done :
    reads (.readSeed 0) (doneWith #v[0xBA7816BF, 0, 0, 0, 0, 0, 0, 0xF20015AD]) = some 0xBF1678BA := by decide
theorem test_read_seed_is_drawn (s : State) (h : s.phase = .absorbing) :
    reads (.readSeed 0) s = some (Config.draw s.draws) := by
  simp [reads, after, exec, execReadSeed, receiveOutput, h, receiveDraw, receive]
theorem test_read_digest_in_done :
    reads (.readDigest 7) (doneWith #v[0xBA7816BF, 0, 0, 0, 0, 0, 0, 0xF20015AD]) = some 0xF20015AD := by decide
theorem test_read_cmd : reads .readCmd (withPending (counting 64)) = some 0 := by decide
theorem test_write_seed_ignored :
    ((after (exec (.writeReadOnly (.seed 0) 0) (doneWith #v[0xBA7816BF, 0, 0, 0, 0, 0, 0, 0]))).bind
      (reads (.readSeed 0))) = some 0xBF1678BA := by decide
theorem test_write_reserved_ignored :
    ((after (exec (.accessReserved (.low 1) (.write 0xDEADBEEF)) State.reset)).bind
      (reads (.accessReserved (.low 1) .read))) = some 0 := by decide

/-! ### Steps of the machine: the engine (95_test_vectors 2.4, 2.6), an illegal word, reset, a placed word -/

theorem test_engine_delivers_abc :
    (afterStep closedAbc).map (fun t => (statusWord t, t.digest[0], t.seed[0], t.seed[7])) =
      some (0x00000032, 0xBA7816BF, 0xBF1678BA, 0xAD1500F2) := by decide +kernel
theorem test_engine_first_of_two :
    (afterStep (closeMessage (counting 56))).map (fun t => (statusWord t, t.h)) =
      some (0x00000021, #v[0x97539B85, 0x1C7EE50B, 0x0B226EC5, 0x4B1F3DBB, 0xE4F116C6, 0xE49B2DD0, 0x31444D1E,
        0x25354F3A]) := by decide +kernel
theorem test_illegal_word :
    (afterStep (hosting [.access (.write 0 4 0x000000FF)] (counting 0))).map statusWord = some 0x00000214 := by decide
theorem test_reset_while_finalizing :
    (afterStep { withError 1 closedAbc with host := [.reset], schedule := [.host] }).map
      (fun t => (statusWord t, t.len, t.host)) = some (0, 0, []) := by decide
theorem test_placed_word_runs : afterStep (State.reset.withFetchWord 32 1) = after (exec .init State.reset) := by decide

/-! ### Witnesses: for each statement with hypotheses, states and operands that meet them, clause by clause -/

theorem witness_DecodeAfterEncode : wellFormed (.absorb 1) = true ∧ wellFormed (.absorb 4) = true := by decide

theorem witness_EncodeAfterDecode :
    decodeAccess 0 (.write 0x00 4 0x00000402) = .instr (.absorb 4) ∧
      decodeAccess 0 (.read 0x7C 4) = .instr (.accessReserved (.high 7) .read) := by decide

theorem witness_SevenLegalCommandWords :
    (∀ i, decodeCommand 0x00000502#32 ≠ .instr i) ∧ 4 ≤ (0x00000004#32).toNat % 256 ∧ 4 ≤ (0x000000FF#32).toNat % 256 := by
  have h : decodeCommand 0x00000502#32 = .illegal .badCount := by decide
  exact ⟨fun i => by rw [h]; exact nofun, by decide, by decide⟩

theorem witness_WindowHoldsThirtyTwoRegisters : 0x7C < 0x80 ∧ 0x7C % 4 = 0 := by decide

/-- 0x7C is the last admitted offset; 0x7E, 0x80 and a 2-byte width are refused. -/
theorem witness_RefusedAccessesAreTheIllegalOnes :
    base State.reset = 0 ∧ ¬ (4 ≠ 4 ∨ 0x7C % 4 ≠ 0 ∨ 0x7C < 0 ∨ 0 + 0x7F < 0x7C) ∧
      (4 ≠ 4 ∨ 0x80 % 4 ≠ 0 ∨ 0x80 < 0 ∨ 0 + 0x7F < 0x80) ∧ (4 ≠ 4 ∨ 0x7E % 4 ≠ 0 ∨ 0x7E < 0 ∨ 0 + 0x7F < 0x7E) ∧
      (2 ≠ 4 ∨ 0x04 % 4 ≠ 0 ∨ 0x04 < 0 ∨ 0 + 0x7F < 0x04) := by decide

theorem witness_StepRunsDecodedAccess :
    nextAgent (hosting [.access (.write 0 4 1)] State.reset) = .host ∧
      decodeAccess 0 (.write 0 4 1) = .instr .init ∧ decodeAccess 0 (.write 0 4 4) = .illegal .illegalOpcode ∧
      decodeAccess 0 (.write 0 2 4) = .refused .width := by decide

theorem witness_PlacedWordRunsNext : decodeTableWord 32 0x00000402 = some (.absorb 4) := by decide

theorem witness_CmdWriteRunsHandler :
    busy (withPending State.reset) = true ∧ busy State.reset = false ∧
      decodeCommand 0x80000001#32 = .illegal .reservedBits ∧ decodeCommand 0x00000402#32 = .instr (.absorb 4) := by decide

theorem witness_NopHasNoEffect :
    busy State.reset = false ∧ busy (withPending State.reset) = true ∧
      (0x00000100#32).toNat % 256 = 0 ∧ 0x00000100#32 ≠ 0x00000000#32 := by decide

theorem witness_InitOpensMessage :
    busy State.reset = false ∧ busy (withPending State.reset) = true ∧
      (0x80000001#32).toNat % 256 = 1 ∧ 0x80000001#32 ≠ 0x00000001#32 ∧ (after (exec .init State.reset)).isSome := by decide

/-- BUFCNT 59 and 60 with four bytes: the two clauses meet there; LEN at the limit. -/
theorem witness_AbsorbAppendsBytes :
    (busy (counting 59) = false ∧ (counting 59).err = false ∧ (counting 59).phase = .absorbing ∧
      (counting 59).bufCnt.val + (4#3).toNat < 64) ∧
    (busy (counting 60) = false ∧ (counting 60).err = false ∧ 64 ≤ (counting 60).bufCnt.val + (4#3).toNat) ∧
    (counting (2 ^ 61 - 2)).len.toNat + (1#3).toNat = 2 ^ 61 - 1 := by decide

theorem witness_AbsorbRejectedOrDropped :
    busy (withPending State.reset) = true ∧
    (busy State.reset = false ∧ ¬ (1 ≤ (5#3).toNat ∧ (5#3).toNat ≤ 4)) ∧
    (busy (withError 1 State.reset) = false ∧ (withError 1 State.reset).err = true ∧ 1 ≤ (4#3).toNat ∧ (4#3).toNat ≤ 4) ∧
    (State.reset.err = false ∧ State.reset.phase ≠ .absorbing) ∧
    (busy (counting (2 ^ 61 - 2)) = false ∧ (counting (2 ^ 61 - 2)).err = false ∧
      (counting (2 ^ 61 - 2)).phase = .absorbing ∧ 2 ^ 61 - 1 < (counting (2 ^ 61 - 2)).len.toNat + (2#3).toNat) := by decide

theorem witness_FinalQueuesPaddedTail :
    (busy (counting 55) = false ∧ (counting 55).err = false ∧ (counting 55).phase = .absorbing ∧
      (counting 55).bufCnt.val = 55) ∧
    (busy (counting 56) = false ∧ (counting 56).err = false ∧ (counting 56).phase = .absorbing ∧
      (counting 56).bufCnt.val = 56) := by decide

theorem witness_FinalRejectedOrDropped :
    busy (withPending State.reset) = true ∧ (busy (withError 5 State.reset) = false ∧ (withError 5 State.reset).err = true) ∧
      (busy State.reset = false ∧ State.reset.err = false ∧ State.reset.phase ≠ .absorbing) ∧
      ((0x00000103#32).toNat % 256 = 3 ∧ 0x00000103#32 ≠ 0x00000003#32) := by decide

theorem witness_LanesInMessageOrder : 0 + 4 ≤ ([0x61, 0x62, 0x63, 0x64] : List Byte).length := by decide

/-- 95_test_vectors P5: the lanes beyond the count differ. -/
theorem witness_UpperLanesIgnored :
    (∀ j, j < (1#3).toNat → (0x00000061#32).extractLsb' (8 * j) 8 = (0xFFFFFF61#32).extractLsb' (8 * j) 8) ∧
      (after (exec (.absorb 1) { counting 0 with dataIn := 0xFFFFFF61 })).isSome := by decide

theorem witness_CommandWhileBusyHazard :
    (Invariant (counting 60) ∧ busy (counting 60) = false ∧ (counting 60).err = false ∧
      (counting 60).phase = .absorbing ∧ countLegal 4 = true ∧ (counting 60).len.toNat + (4#3).toNat ≤ 2 ^ 61 - 1 ∧
      (after (exec (.absorb 4) (counting 60))).isSome) ∧
    (after (exec .final (counting 60))).isSome ∧
    (busy (withPending (counting 60)) = true ∧ (withPending (counting 60)).err = false) := by
  refine ⟨⟨⟨nofun, fun _ => by decide, nofun, nofun, by unfold errorRecordSound; decide, by decide⟩, by decide⟩, by decide⟩

theorem witness_RaiseErrorKeepsFirst : State.reset.err = false ∧ (withError 6 State.reset).err = true := by decide

theorem witness_CommandErrorPriority :
    (State.reset.err = false ∧ State.reset.errCode = 0) ∧
      ((withError 1 State.reset).err = true ∧ (withError 1 State.reset).pending = [] ∧
        decodeCommand 0x00000102#32 = .instr (.absorb 1) ∧ decodeCommand 0x00000003#32 = .instr .final) := by decide

theorem witness_RejectedCommandIsPrecise :
    State.reset.err = false ∧
      (after (hostAccess (.write (base State.reset) 4 0x00000003#32) State.reset)).map (fun t => t.err) = some true := by
  decide

theorem witness_ErrorGateDropsCommands :
    (withError 5 State.reset).err = true ∧ busy (withError 5 State.reset) = false ∧ 0x00000102#32 ≠ 0x00000001#32 ∧
      busy (withPending (withError 5 State.reset)) = true := by decide

theorem witness_OnlyInitAndResetClearError :
    (withError 5 State.reset).err = true ∧ (afterStep (hosting [.access (.write 0 4 1)] (withError 5 State.reset))).isSome := by
  decide

theorem witness_ReadStatusReturnsStatus :
    ((counting 0).err = false ∧ (counting 0).errCode = 0 ∧ (counting 0).phase = .absorbing ∧ (counting 0).pending = []) ∧
    ((withPending (counting 64)).phase = .absorbing ∧ (withPending (counting 64)).pending ≠ []) ∧
    (closedAbc.err = false ∧ closedAbc.errCode = 0 ∧ closedAbc.phase = .finalizing ∧ closedAbc.pending ≠ []) ∧
    ((doneWith initialHash).phase = .done ∧ (doneWith initialHash).pending = [] ∧ (doneWith initialHash).err = false) ∧
    ((withError 5 State.reset).phase = .idle ∧ (withError 5 State.reset).pending = [] ∧
      (withError 5 State.reset).errCode = 5) := by decide

theorem witness_OutputReadsReturnStoredOrDraw :
    (doneWith initialHash).phase = .done ∧ State.reset.phase ≠ .done ∧ closedAbc.phase ≠ .done := by decide

theorem witness_ReadsHaveNoSideEffect :
    (after (hostAccess (.read 0x20 4) (doneWith initialHash))).isSome ∧ (doneWith initialHash).phase = .done ∧
      (after (hostAccess (.read 0x7C 4) State.reset)).isSome := by decide

/-- An instruction; steps of the host, of the engine that reaches DONE, and a refused one. -/
theorem witness_StaleOutputsUnobservable :
    (counting 60).phase ≠ .done ∧ (after (exec .readStatus (counting 60))).isSome ∧
      (afterStep (hosting (waitOps 0) (counting 60))).isSome ∧
      (closedAbc.phase ≠ .done ∧ (afterStep closedAbc).map (fun t => t.phase) = some .done) ∧
      step (hosting [.access (.read 4 2)] (counting 60)) = .refused .accessWidth :=
  ⟨by decide, by decide, by decide, by decide +kernel, rfl⟩

theorem witness_HiddenStateUnobservable : (after (exec (.absorb 4) (counting 60))).isSome := by decide

theorem witness_EngineTurnCompressesHead :
    (nextAgent closedAbc = .engine ∧ closedAbc.pending.length = 1 ∧ closedAbc.phase = .finalizing) ∧
      (nextAgent (closeMessage (counting 56)) = .engine ∧ (closeMessage (counting 56)).pending.length = 2) ∧
      State.reset.pending = [] := by decide +kernel

theorem witness_PaddingShape :
    (List.replicate 55 (0x61 : Byte)).length ≤ 63 ∧ (List.replicate 63 (0x61 : Byte)).length ≤ 63 ∧
      8 * (2 ^ 61 - 1) < 2 ^ 64 := by decide

theorem witness_InitHoldsEmptyMessage : busy State.reset = false := by decide

theorem holding_holdsOpen_abc : HoldsOpen [0x61, 0x62, 0x63] (holding [0x61, 0x62, 0x63]) :=
  ⟨by decide, by decide, by decide, rfl⟩

theorem witness_AbsorbExtendsMessage :
    busy (holding [0x61, 0x62, 0x63]) = false ∧ (holding [0x61, 0x62, 0x63]).err = false ∧
      (holding [0x61, 0x62, 0x63]).phase = .absorbing ∧ HoldsOpen [0x61, 0x62, 0x63] (holding [0x61, 0x62, 0x63]) ∧
      1 ≤ (4#3).toNat ∧ (4#3).toNat ≤ 4 ∧ ([0x61, 0x62, 0x63] : List Byte).length + (4#3).toNat ≤ 2 ^ 61 - 1 :=
  ⟨by decide, by decide, by decide, holding_holdsOpen_abc, by decide⟩

theorem witness_FinalClosesMessage :
    busy (holding [0x61, 0x62, 0x63]) = false ∧ (holding [0x61, 0x62, 0x63]).err = false ∧
      (holding [0x61, 0x62, 0x63]).phase = .absorbing ∧ HoldsOpen [0x61, 0x62, 0x63] (holding [0x61, 0x62, 0x63]) :=
  ⟨by decide, by decide, by decide, holding_holdsOpen_abc⟩

theorem closedAbc_holdsClosed : HoldsClosed [0x61, 0x62, 0x63] closedAbc := ⟨by decide, by decide, by decide +kernel⟩

theorem witness_EngineServesSameMessage :
    Serves [0x61, 0x62, 0x63] closedAbc ∧ closedAbc.phase = .finalizing ∧ (engineStep closedAbc).pending = [] :=
  ⟨closedAbc_holdsClosed, by decide, by decide⟩

theorem witness_EveryStepServesSomeMessage :
    State.reset.phase = .idle ∧ ([0x61, 0x62, 0x63] : List Byte).length ≤ 2 ^ 61 - 1 ∧
      Serves [0x61, 0x62, 0x63] closedAbc ∧ (afterStep closedAbc).isSome :=
  ⟨by decide, by decide, closedAbc_holdsClosed, by decide +kernel⟩

/-- A host that streams groups of bytes: INIT, the PUTs, FINAL and WAIT, for the window at 0. -/
def streamingHost (groups : List (Nat × Word)) : State :=
  hosting ([issue 0 .init] ++ (groups.map fun g => putOps 0 g.1 g.2).flatten ++ [issue 0 .final] ++ waitOps 0) State.reset

/-- 95_test_vectors P5: "abc" as 1 + 2 bytes, with other bytes in the upper lanes. -/
def splitAbc : List (Nat × Word) := [(1, 0xFFFFFF61), (2, 0x12346362)]

theorem witness_StreamedMessageDelivered :
    busy (streamingHost splitAbc) = false ∧ (∀ g, g ∈ splitAbc → 1 ≤ g.1 ∧ g.1 ≤ 4) ∧
      [0x61, 0x62, 0x63] = (splitAbc.map fun g => laneBytes g.2 g.1).flatten ∧
      ([0x61, 0x62, 0x63] : List Byte).length ≤ 2 ^ 61 - 1 ∧
      (streamingHost splitAbc).host =
        [issue (base (streamingHost splitAbc)) .init] ++
          (splitAbc.map fun g => putOps (base (streamingHost splitAbc)) g.1 g.2).flatten ++
          [issue (base (streamingHost splitAbc)) .final] ++ waitOps (base (streamingHost splitAbc)) := by decide

theorem witness_KdfReadsSeedMaterial :
    busy (hosting (kdfOps 0 [0x61]) State.reset) = false ∧ ([0x61] : List Byte).length ≤ 2 ^ 61 - 1 ∧
      (hosting (kdfOps 0 [0x61]) State.reset).host = kdfOps (base (hosting (kdfOps 0 [0x61]) State.reset)) [0x61] := by
  decide

/-- A state that `afterSteps` answers is reached. -/
theorem reachesIn_of_afterSteps {n : Nat} {s t : State} (h : afterSteps n s = some t) : reachesIn n s t := by
  induction n generalizing s with
  | zero => cases h; rfl
  | succ n ih =>
    cases hs : step s with
    | next u =>
      simp only [afterSteps, afterStep, hs, after, Option.bind_some] at h
      exact ⟨u, hs, ih h⟩
    | fault r => exact nomatch r
    | refused r => simp [afterSteps, afterStep, hs, after] at h

/-- A streaming host whose run of `n` steps ends with nothing left to do reaches such a state. -/
theorem reaches_idle_host {n : Nat} {s : State} (h : (afterSteps n s).map (fun t => t.host) = some []) :
    ∃ t, reachesIn n s t ∧ t.host = [] := by
  cases ha : afterSteps n s with
  | none => rw [ha] at h; cases h
  | some t => rw [ha] at h; exact ⟨t, reachesIn_of_afterSteps ha, Option.some.inj h⟩

/-- One byte, from two words that differ in the lanes beyond it. -/
theorem witness_DigestIndependentOfSplit :
    (busy (streamingHost [(1, 0xFFFFFF61)]) = false ∧ busy (streamingHost [(1, 0x00000061)]) = false ∧
      (([(1, 0xFFFFFF61)] : List (Nat × Word)).map fun g => laneBytes g.2 g.1).flatten =
        (([(1, 0x00000061)] : List (Nat × Word)).map fun g => laneBytes g.2 g.1).flatten) ∧
      (∃ t, reachesIn 7 (streamingHost [(1, 0xFFFFFF61)]) t ∧ t.host = []) ∧
      (∃ t, reachesIn 7 (streamingHost [(1, 0x00000061)]) t ∧ t.host = []) :=
  ⟨by decide, reaches_idle_host (by decide +kernel), reaches_idle_host (by decide +kernel)⟩

theorem witness_WaitEnds : (hosting (waitOps 0) closedAbc).host = waitOps (base (hosting (waitOps 0) closedAbc)) ++ [] := by
  decide

theorem witness_KdfRunEndsWithoutFault :
    busy (hosting (kdfOps 0 []) State.reset) = false ∧ ([] : List Byte).length ≤ 2 ^ 61 - 1 ∧
      (hosting (kdfOps 0 []) State.reset).host = kdfOps (base (hosting (kdfOps 0 []) State.reset)) [] := by decide

/-- No run starts in an old DONE state whose host only reads STATUS (70_reset R239). -/
theorem test_status_read_in_done_starts_no_run : ¬ startsRun (hosting [.access (.read 4 4)] (doneWith initialHash)) := by
  rintro (⟨h, -⟩ | ⟨-, a, rest, h, hd⟩)
  · exact absurd h (by decide)
  · cases h
    exact absurd hd (by decide)

/-- A run starts at the reset state, and at an INIT that a host in DONE has next. -/
theorem test_runs_start_at_reset_and_init :
    startsRun State.reset ∧ startsRun (hosting [.access (.write 0 4 1)] (doneWith initialHash)) :=
  ⟨.inl (by unfold atReset; decide), .inr ⟨by decide, _, _, rfl, by decide⟩⟩

theorem witness_StepKeepsInvariant : Invariant State.reset ∧ (afterStep State.reset).isSome :=
  ⟨⟨by unfold idleClear; decide, nofun, nofun, nofun, by unfold errorRecordSound; decide, by decide⟩, by decide⟩

theorem witness_PhaseChangedOnlyByItsWriters :
    (afterStep (hosting [.access (.write 0 4 1)] State.reset)).map (fun t => t.phase) = some .absorbing ∧
      (afterStep (hosting [.access (.write 0 4 3)] (counting 0))).map (fun t => t.phase) = some .finalizing ∧
      (afterStep (hosting [.reset] (counting 0))).map (fun t => t.phase) = some .idle ∧
      (afterStep closedAbc).map (fun t => t.phase) = some .done := by decide +kernel

theorem witness_LenAndDataInChangedOnlyByTheirWriters :
    (afterStep (hosting [.access (.write 0 4 0x402)] (counting 0))).map (fun t => t.len) = some 4 ∧
      (afterStep (hosting [.access (.write 8 4 5)] (counting 0))).map (fun t => t.dataIn) = some 5 := by decide

theorem witness_HashRegistersChangedOnlyByTheirWriters :
    (afterStep (hosting [.access (.write 0 4 1)] State.reset)).map (fun t => t.h) = some initialHash ∧
      State.reset.h ≠ initialHash ∧
      (afterStep closedAbc).map (fun t => decide (t.seed ≠ closedAbc.seed ∧ t.digest ≠ closedAbc.digest)) = some true := by
  decide +kernel

theorem witness_ResetSignalGivesResetValues :
    nextAgent (hosting [.reset] (counting 5)) = .host ∧ (hosting [.reset] (counting 5)).host = .reset :: [] := by decide

/-- Both ways into the state after reset: power-on, and reset asserted in FINALIZING. -/
theorem witness_ReadsAfterReset :
    ∃ s t : State, s.phase = .finalizing ∧ t = resetSignal s ∧ t.phase = .idle :=
  ⟨closedAbc, resetSignal closedAbc, by decide, rfl, rfl⟩

end Sys2Proof.Tests
end

section
/-! The layer below the statements of 10_state: which fields each step leaves unchanged, and what may change the others
(10_state R23 to R31). -/

namespace Sys2Proof.Machine

/-! ### The engine's turn -/

@[simp] theorem engineStep_err (s : State) : (engineStep s).err = s.err := by
  rcases engineStep_cases s with ⟨-, he⟩ | ⟨b, rest, -, -, he⟩ | ⟨b, -, -, he⟩ <;> rw [he] <;> rfl

@[simp] theorem engineStep_errCode (s : State) : (engineStep s).errCode = s.errCode := by
  rcases engineStep_cases s with ⟨-, he⟩ | ⟨b, rest, -, -, he⟩ | ⟨b, -, -, he⟩ <;> rw [he] <;> rfl

@[simp] theorem engineStep_len (s : State) : (engineStep s).len = s.len := by
  rcases engineStep_cases s with ⟨-, he⟩ | ⟨b, rest, -, -, he⟩ | ⟨b, -, -, he⟩ <;> rw [he] <;> rfl

@[simp] theorem engineStep_dataIn (s : State) : (engineStep s).dataIn = s.dataIn := by
  rcases engineStep_cases s with ⟨-, he⟩ | ⟨b, rest, -, -, he⟩ | ⟨b, -, -, he⟩ <;> rw [he] <;> rfl

/-- With nothing pending the engine's turn changes nothing (60_exceptions R217). -/
theorem engineStep_of_pending_nil {s : State} (nothing : s.pending = []) : engineStep s = s := by
  unfold engineStep; rw [nothing]

/-- The engine touches PHASE, SEED and DIGEST only when it compresses the last block of a closed message (41 R140). -/
theorem engineStep_delivers_or_keeps (s : State) :
    (s.phase = .finalizing ∧ s.pending.length = 1 ∧ (engineStep s).phase = .done) ∨
      ((engineStep s).phase = s.phase ∧ (engineStep s).seed = s.seed ∧ (engineStep s).digest = s.digest) := by
  rcases engineStep_cases s with ⟨-, he⟩ | ⟨b, rest, -, -, he⟩ | ⟨b, last, closed, he⟩ <;> rw [he]
  · exact .inr ⟨rfl, rfl, rfl⟩
  · exact .inr ⟨rfl, rfl, rfl⟩
  · exact .inl ⟨closed, by simp [last], rfl⟩

/-! ### The effect of one instruction -/

/-- Behind the length check of 40_commands R103 LEN does not wrap. -/
theorem len_add_toNat {len : BitVec 61} {n : Nat} (fits : len.toNat + n ≤ Config.maxMsgBytes) :
    (len + BitVec.ofNat 61 n).toNat = len.toNat + n := by
  simp only [Config.maxMsgBytes] at fits
  rw [BitVec.toNat_add, BitVec.toNat_ofNat]; omega

section ExecEffect
variable {i : Instr} {s t : State}

/-- Among the instructions only an accepted INIT and an accepted FINAL write PHASE (10_state R23). -/
theorem ExecEffect.phase_writer (effect : ExecEffect i s t) (changed : t.phase ≠ s.phase) :
    busy s = false ∧ ((i = .init ∧ t.phase = .absorbing) ∨
      (i = .final ∧ s.phase = .absorbing ∧ t.phase = .finalizing)) := by
  cases effect with
  | opened hi idle => exact ⟨idle, .inl ⟨hi, rfl⟩⟩
  | closed hi idle ok phase => exact ⟨idle, .inr ⟨hi, phase, rfl⟩⟩
  | unchanged | raised | absorbed | stored | read | drawn => simp at changed

/-- Among the instructions only an accepted INIT and an accepted ABSORB write LEN (10_state R28). -/
theorem ExecEffect.len_writer (effect : ExecEffect i s t) (changed : t.len ≠ s.len) :
    busy s = false ∧ ((i = .init ∧ t.len = 0) ∨
      (∃ cnt, i = .absorb cnt ∧ s.phase = .absorbing ∧ s.err = false ∧ t.len.toNat = s.len.toNat + cnt.toNat)) := by
  cases effect with
  | opened hi idle => exact ⟨idle, .inl ⟨hi, rfl⟩⟩
  | absorbed cnt hi idle ok phase legal fits =>
    exact ⟨idle, .inr ⟨cnt, hi, phase, ok, by simpa using len_add_toNat fits⟩⟩
  | unchanged | raised | closed | stored | read | drawn => simp at changed

/-- Among the instructions only WRITE DATA_IN writes DATA_IN, and it stores the value written (10_state R30). -/
theorem ExecEffect.dataIn_writer (effect : ExecEffect i s t) (changed : t.dataIn ≠ s.dataIn) :
    i = .writeDataIn t.dataIn := by
  cases effect with
  | stored v hi => exact hi
  | unchanged | raised | opened | absorbed | closed | read | drawn => simp at changed

/-- Among the instructions only an accepted INIT writes H (10_state R26). -/
theorem ExecEffect.h_writer (effect : ExecEffect i s t) (changed : t.h ≠ s.h) : i = .init ∧ busy s = false := by
  cases effect with
  | opened hi idle => exact ⟨hi, idle⟩
  | unchanged | raised | absorbed | closed | stored | read | drawn => simp at changed

/-- No instruction writes SEED or DIGEST (10_state R31). -/
theorem ExecEffect.outputs_kept (effect : ExecEffect i s t) : t.seed = s.seed ∧ t.digest = s.digest := by
  cases effect <;> simp

end ExecEffect

/-! ### The effect of one step -/

/-- PHASE, H, LEN, DATA_IN, SEED and DIGEST are the same in both states. -/
structure SameRegisters (s t : State) : Prop where
  phase : t.phase = s.phase
  h : t.h = s.h
  len : t.len = s.len
  dataIn : t.dataIn = s.dataIn
  seed : t.seed = s.seed
  digest : t.digest = s.digest

/-- Only the engine's turn, reset and a decoded instruction can write these registers; an idle host turn, a decode error
and a poll cannot (00_scope R13, 20_memory R59, 60_exceptions R202). -/
theorem step_register_writer {s t : State} (h : step s = .next t) :
    SameRegisters s t ∨
      (nextAgent s = .engine ∧ t = engineStep (popTurn s)) ∨
      (nextAgent s = .host ∧ ∃ rest, s.host = .reset :: rest ∧ t = resetSignal { popTurn s with host := rest }) ∨
      (nextAgent s = .host ∧ ∃ a rest i, s.host = .access a :: rest ∧ decodeAccess (base s) a = .instr i ∧
        ExecEffect i { popTurn s with host := rest } t) := by
  cases step_effect h with
  | engine turn => exact .inr (.inl ⟨turn, rfl⟩)
  | idle turn => exact .inl ⟨rfl, rfl, rfl, rfl, rfl, rfl⟩
  | instr turn a rest i _ op decoded effect => exact .inr (.inr (.inr ⟨turn, a, rest, i, op, decoded, effect⟩))
  | decodeError turn a rest e op => exact .inl (by constructor <;> simp)
  | poll turn addr mask value rest op u _ reading goes =>
    have read : SameRegisters s u := by
      rcases reading with rfl | ⟨r, v, rfl⟩ | ⟨r, -, rfl⟩ <;> exact ⟨rfl, rfl, rfl, rfl, rfl, rfl⟩
    rcases goes with rfl | rfl
    · exact .inl read
    · exact .inl ⟨read.phase, read.h, read.len, read.dataIn, read.seed, read.digest⟩
  | reset turn rest op => exact .inr (.inr (.inl ⟨turn, rest, op, rfl⟩))

end Sys2Proof.Machine
end

section
/-! The invariants of 10_state R43: one lemma per phase that builds them, then one per effect that keeps them. -/

namespace Sys2Proof.Machine

/-! ### Building the invariants -/

/-- 10_state R43 (f) follows from LEN's width. -/
theorem len_le_maxMsgBytes (s : State) : s.len.toNat ≤ Config.maxMsgBytes := by
  have := s.len.isLt
  simp only [Config.maxMsgBytes]; omega

theorem Invariant.ofIdle {s : State} (phase : s.phase = .idle)
    (clear : s.len = 0 ∧ s.bufCnt = 0 ∧ s.pending = []) (error : errorRecordSound s) : Invariant s :=
  ⟨fun _ => clear, by simp [absorbingCounts, phase], by simp [finalizingPending, phase], by simp [doneQuiet, phase],
    error, len_le_maxMsgBytes s⟩

theorem Invariant.ofAbsorbing {s : State} (phase : s.phase = .absorbing)
    (counts : s.bufCnt.val = s.len.toNat % 64 ∧ s.pending.length ≤ 1) (error : errorRecordSound s) : Invariant s :=
  ⟨by simp [idleClear, phase], fun _ => counts, by simp [finalizingPending, phase], by simp [doneQuiet, phase],
    error, len_le_maxMsgBytes s⟩

theorem Invariant.ofFinalizing {s : State} (phase : s.phase = .finalizing)
    (waiting : s.bufCnt = 0 ∧ 1 ≤ s.pending.length ∧ s.pending.length ≤ 2) (error : errorRecordSound s) : Invariant s :=
  ⟨by simp [idleClear, phase], by simp [absorbingCounts, phase], fun _ => waiting, by simp [doneQuiet, phase],
    error, len_le_maxMsgBytes s⟩

theorem Invariant.ofDone {s : State} (phase : s.phase = .done)
    (quiet : s.bufCnt = 0 ∧ s.pending = []) (error : errorRecordSound s) : Invariant s :=
  ⟨by simp [idleClear, phase], by simp [absorbingCounts, phase], by simp [finalizingPending, phase], fun _ => quiet,
    error, len_le_maxMsgBytes s⟩

/-- The invariants speak of PHASE, PENDING, BUFCNT, LEN and the error record only. -/
theorem Invariant.transfer {s t : State} (inv : Invariant s) (phase : t.phase = s.phase)
    (pending : t.pending = s.pending) (bufCnt : t.bufCnt = s.bufCnt) (len : t.len = s.len)
    (error : errorRecordSound t) : Invariant t where
  idle := by unfold idleClear; rw [phase, pending, bufCnt, len]; exact inv.idle
  absorbing := by unfold absorbingCounts; rw [phase, pending, bufCnt, len]; exact inv.absorbing
  finalizing := by unfold finalizingPending; rw [phase, pending, bufCnt]; exact inv.finalizing
  done := by unfold doneQuiet; rw [phase, pending, bufCnt]; exact inv.done
  error := error
  length := len_le_maxMsgBytes t

/-! ### The error record -/

/-- The codes are 1 to 6: neither 0 nor the unused code 7 (60_exceptions R201). -/
theorem errorNumber_ne_zero_seven (e : ErrorCode) : errorNumber e ≠ 0 ∧ errorNumber e ≠ 7 := by
  cases e <;> decide

/-- A cleared error record meets 10_state R43 (e). -/
theorem errorRecordSound_of_clear {s : State} (err : s.err = false) (code : s.errCode = 0) : errorRecordSound s := by
  simp [errorRecordSound, err, code]

theorem raiseError_errorRecordSound (e : ErrorCode) {s : State} (sound : errorRecordSound s) :
    errorRecordSound (raiseError e s) := by
  rcases raiseError_cases e s with ⟨-, he⟩ | ⟨-, he⟩ <;> rw [he]
  · exact sound
  · obtain ⟨nonzero, unused⟩ := errorNumber_ne_zero_seven e
    exact ⟨iff_of_false (by simp) nonzero, unused⟩

theorem raiseError_invariant (e : ErrorCode) {s : State} (inv : Invariant s) : Invariant (raiseError e s) :=
  inv.transfer (by simp) (by simp) (by simp) (by simp) (raiseError_errorRecordSound e inv.error)

/-! ### The commands -/

/-- An accepted INIT opens an empty message (40_commands R102). -/
theorem openMessage_invariant {s : State} (idle : busy s = false) : Invariant (openMessage s) :=
  .ofAbsorbing rfl ⟨by simp, by simp [busy_eq_false.mp idle]⟩ (errorRecordSound_of_clear rfl rfl)

/-- The counts of an accepted ABSORB: BUFCNT moves on modulo 64, LEN does not wrap, and at most the block that fills is
pending (40_commands R103). -/
theorem absorb_counts {s : State} {n : Nat} (idle : busy s = false) (counts : s.bufCnt.val = s.len.toNat % 64)
    (small : n ≤ 4) (fits : s.len.toNat + n ≤ Config.maxMsgBytes) :
    (countBytes n (appendBytes (laneBytes s.dataIn n) s)).bufCnt.val =
        (countBytes n (appendBytes (laneBytes s.dataIn n) s)).len.toNat % 64 ∧
      (countBytes n (appendBytes (laneBytes s.dataIn n) s)).pending.length ≤ 1 := by
  have nothing : s.pending = [] := busy_eq_false.mp idle
  obtain ⟨stays, fills⟩ := appendBytes_validBytes (laneBytes s.dataIn n) s (by rwa [laneBytes_length])
  rw [laneBytes_length, nothing] at stays fills
  rw [countBytes_bufCnt, countBytes_pending, countBytes_len, appendBytes_len, len_add_toNat fits]
  by_cases room : s.bufCnt.val + n < 64
  · obtain ⟨pending, count, -⟩ := stays room
    exact ⟨by omega, by simp [pending]⟩
  · obtain ⟨block, pending, count, -⟩ := fills (by omega)
    exact ⟨by omega, by simp [pending]⟩

/-- FINAL queues one or two blocks (40_commands R104). -/
theorem finalBlocks_length_bounds (s : State) : 1 ≤ (finalBlocks s).length ∧ (finalBlocks s).length ≤ 2 := by
  rw [finalBlocks_length]; split <;> decide

/-- An accepted FINAL leaves its one or two blocks pending and BUF empty. -/
theorem closeMessage_invariant {s : State} (inv : Invariant s) (idle : busy s = false) : Invariant (closeMessage s) :=
  .ofFinalizing rfl ⟨rfl, by simpa [busy_eq_false.mp idle] using finalBlocks_length_bounds s⟩ inv.error

theorem ExecEffect.keeps_invariant {i : Instr} {s t : State} (effect : ExecEffect i s t) (inv : Invariant s) :
    Invariant t := by
  cases effect with
  | unchanged => exact inv
  | raised e => exact raiseError_invariant e inv
  | opened hi idle => exact openMessage_invariant idle
  | absorbed cnt hi idle ok phase legal fits =>
    obtain ⟨counts, -⟩ := inv.absorbing phase
    obtain ⟨-, small⟩ := (countLegal_iff cnt).mp legal
    exact .ofAbsorbing (by simp [phase]) (absorb_counts idle counts small fits)
      (by simpa [errorRecordSound] using inv.error)
  | closed hi idle ok phase => exact closeMessage_invariant inv idle
  | stored v hi => exact inv.transfer rfl rfl rfl rfl inv.error
  | read r v => exact inv.transfer rfl rfl rfl rfl inv.error
  | drawn r phase => exact inv.transfer rfl rfl rfl rfl inv.error

/-! ### The agents' turns -/

/-- The engine takes one block from PENDING, which only ABSORBING and FINALIZING can hold, and reaches DONE with the last
one of FINALIZING (41 R140). -/
theorem engineStep_invariant {s : State} (inv : Invariant s) : Invariant (engineStep s) := by
  have error : errorRecordSound (engineStep s) := by simpa [errorRecordSound] using inv.error
  rcases engineStep_cases s with ⟨-, he⟩ | ⟨b, rest, pending, more, he⟩ | ⟨b, pending, closed, he⟩ <;>
    rw [he] at error ⊢
  · exact inv
  · cases phase : s.phase with
    | idle =>
      obtain ⟨-, -, nothing⟩ := inv.idle phase
      simp [pending] at nothing
    | absorbing =>
      obtain ⟨counts, short⟩ := inv.absorbing phase
      exact .ofAbsorbing phase ⟨counts, by simp [pending] at short; simp [short]⟩ error
    | finalizing =>
      obtain ⟨empty, -, short⟩ := inv.finalizing phase
      have nonempty : rest ≠ [] := more.resolve_right (not_not.mpr phase)
      rw [pending, List.length_cons] at short
      exact .ofFinalizing phase
        ⟨empty, List.length_pos_of_ne_nil nonempty, (by omega : rest.length ≤ 2)⟩ error
    | done =>
      obtain ⟨-, nothing⟩ := inv.done phase
      simp [pending] at nothing
  · obtain ⟨empty, -⟩ := inv.finalizing closed
    exact .ofDone rfl ⟨empty, rfl⟩ error

theorem resetSignal_invariant (s : State) : Invariant (resetSignal s) :=
  .ofIdle rfl ⟨rfl, rfl, rfl⟩ (errorRecordSound_of_clear rfl rfl)

theorem StepEffect.keeps_invariant {s t : State} (effect : StepEffect s t) (inv : Invariant s) : Invariant t := by
  have turned (rest : List HostOp) : Invariant { popTurn s with host := rest } :=
    inv.transfer rfl rfl rfl rfl inv.error
  cases effect with
  | engine turn => exact engineStep_invariant (turned s.host)
  | idle turn => exact turned s.host
  | instr turn a rest i _ op decoded effect => exact effect.keeps_invariant (turned rest)
  | decodeError turn a rest e op => exact raiseError_invariant e (turned rest)
  | poll turn addr mask value rest op u _ reading goes =>
    have read : Invariant u := by
      rcases reading with rfl | ⟨r, v, rfl⟩ | ⟨r, -, rfl⟩ <;> exact inv.transfer rfl rfl rfl rfl inv.error
    rcases goes with rfl | rfl
    · exact read
    · exact read.transfer rfl rfl rfl rfl read.error
  | reset turn rest op => exact resetSignal_invariant _

/-- Settles O53: every effect a step can have keeps the invariants. -/
theorem stepKeepsInvariant : Obligations.StepKeepsInvariant :=
  fun _ _ inv h => (step_effect h).keeps_invariant inv

/-- Settles O54: IDLE with everything clear. -/
theorem resetMeetsInvariant : Obligations.ResetMeetsInvariant :=
  .ofIdle rfl ⟨rfl, rfl, rfl⟩ (errorRecordSound_of_clear rfl rfl)

end Sys2Proof.Machine
end

section
/-! The writers of PHASE, LEN, DATA_IN, H, SEED and DIGEST (10_state R23, R26, R28, R30, R31). -/

namespace Sys2Proof.Machine

/-- Settles O55: the writers of PHASE are read off the step's possible effects. -/
theorem phaseChangedOnlyByItsWriters : Obligations.PhaseChangedOnlyByItsWriters := by
  intro s t h changed
  rcases step_register_writer h with same | ⟨turn, rfl⟩ | ⟨turn, rest, op, rfl⟩ | ⟨turn, a, rest, i, op, decoded, effect⟩
  · exact absurd same.phase changed
  · rcases engineStep_delivers_or_keeps (popTurn s) with ⟨closed, last, delivered⟩ | ⟨kept, -⟩
    · exact .inr (.inr ⟨turn, closed, last, delivered⟩)
    · exact absurd kept changed
  · exact .inl ⟨turn, rfl, rest, op⟩
  · obtain ⟨idle, ⟨rfl, phase⟩ | ⟨rfl, absorbing, phase⟩⟩ := effect.phase_writer changed
    · exact .inr (.inl ⟨turn, idle, a, rest, op, .inl ⟨decoded, phase⟩⟩)
    · exact .inr (.inl ⟨turn, idle, a, rest, op, .inr ⟨decoded, absorbing, phase⟩⟩)

/-- Settles O56: the writers of LEN and of DATA_IN are read off the step's possible effects. -/
theorem lenAndDataInChangedOnlyByTheirWriters : Obligations.LenAndDataInChangedOnlyByTheirWriters := by
  intro s t h
  rcases step_register_writer h with same | ⟨turn, rfl⟩ | ⟨turn, rest, op, rfl⟩ | ⟨turn, a, rest, i, op, decoded, effect⟩
  · exact ⟨absurd same.len, absurd same.dataIn⟩
  · exact ⟨absurd (engineStep_len _), absurd (engineStep_dataIn _)⟩
  · exact ⟨fun _ => ⟨turn, .inl ⟨rfl, rest, op⟩⟩, fun _ => ⟨turn, .inl ⟨rfl, rest, op⟩⟩⟩
  · constructor
    · intro changed
      obtain ⟨idle, ⟨rfl, zero⟩ | ⟨cnt, rfl, absorbing, ok, sum⟩⟩ := effect.len_writer changed
      · exact ⟨turn, .inr ⟨a, rest, op, idle, .inl ⟨decoded, zero⟩⟩⟩
      · exact ⟨turn, .inr ⟨a, rest, op, idle, .inr ⟨cnt, decoded, absorbing, ok, sum⟩⟩⟩
    · intro changed
      exact ⟨turn, .inr ⟨a, rest, op, effect.dataIn_writer changed ▸ decoded⟩⟩

/-- Settles O57: the writers of H and of the outputs are read off the step's possible effects. -/
theorem hashRegistersChangedOnlyByTheirWriters : Obligations.HashRegistersChangedOnlyByTheirWriters := by
  intro s t h
  rcases step_register_writer h with same | ⟨turn, rfl⟩ | ⟨turn, rest, op, rfl⟩ | ⟨turn, a, rest, i, op, decoded, effect⟩
  · exact ⟨absurd same.h, fun changed => absurd changed (by simp [same.seed, same.digest])⟩
  · constructor
    · intro changed
      refine .inl ⟨turn, fun nothing => changed ?_⟩
      rw [engineStep_of_pending_nil (s := popTurn s) nothing, popTurn_h]
    · intro changed
      rcases engineStep_delivers_or_keeps (popTurn s) with ⟨closed, last, delivered⟩ | ⟨-, seed, digest⟩
      · exact .inl ⟨turn, closed, last, delivered⟩
      · exact absurd changed (by simp [seed, digest])
  · exact ⟨fun _ => .inr ⟨turn, .inl ⟨rest, op⟩⟩, fun _ => .inr ⟨turn, rest, op⟩⟩
  · constructor
    · intro changed
      obtain ⟨rfl, idle⟩ := effect.h_writer changed
      exact .inr ⟨turn, .inr ⟨a, rest, op, decoded, idle⟩⟩
    · intro changed
      obtain ⟨seed, digest⟩ := effect.outputs_kept
      exact absurd changed (by simp [seed, digest])

end Sys2Proof.Machine
end

section
/-! The register map and the words read from it (10_state R32, R34, R36, R37). -/

namespace Sys2Proof

/-- Each of the window's 32 word indices is the place of the register found there (10_state R32). -/
theorem regOffset_regAtIndex : ∀ k < 32, regOffset (regAtIndex k) = 4 * k := by
  decide

/-- An access at a register's offset reaches it (20_memory R51). -/
theorem locate_regOffset (base : Nat) (r : Reg) : locate base (base + regOffset r) 4 = .ok r := by
  obtain ⟨inside, aligned⟩ := Laws.EncodesWord.regOffset_in_window r
  rw [locate_eq_ok (by omega) (by omega) (by rwa [Nat.add_sub_cancel_left]), Nat.add_sub_cancel_left,
    regAtIndex_regOffset]

/-- Two registers never share an offset (10_state R32). -/
theorem regOffset_injective : Function.Injective regOffset := by
  intro q r same
  rw [← regAtIndex_regOffset q, same, regAtIndex_regOffset]

end Sys2Proof

namespace Sys2Proof.Machine

/-- Settles O6: the word index is inverse to the offset, both ways. -/
theorem windowHoldsThirtyTwoRegisters : Obligations.WindowHoldsThirtyTwoRegisters := by
  refine ⟨locate_regOffset, ?_, rfl, rfl, rfl, rfl, rfl, fun _ => ⟨rfl, rfl, rfl⟩, fun _ => rfl⟩
  intro off inside aligned
  have here : regOffset (regAtIndex (off / 4)) = off := by
    rw [regOffset_regAtIndex _ (by omega)]; omega
  exact ⟨_, here, fun q there => regOffset_injective (there.trans here.symm)⟩

/-! ### STATUS -/

/-- A field put above the bits in use adds its number at its place: the two share no bit. -/
theorem toNat_or_shiftLeft {low field : Word} {k : Nat} (below : low.toNat < 2 ^ k)
    (fits : field.toNat * 2 ^ k < 2 ^ 32) : (low ||| field <<< k).toNat = low.toNat + 2 ^ k * field.toNat := by
  rw [BitVec.toNat_or, BitVec.toNat_shiftLeft, Nat.shiftLeft_eq, Nat.mod_eq_of_lt fits, Nat.or_comm, ← Nat.shiftLeft_eq,
    ← Nat.shiftLeft_add_eq_or_of_lt below, Nat.shiftLeft_eq, Nat.mul_comm,
    Nat.add_comm]

theorem flagWord_toNat (b : Bool) : (flagWord b).toNat = b.toNat := by
  cases b <;> rfl

/-- The number of STATUS, field by field (10_state R34). -/
theorem statusWord_toNat (s : State) : (statusWord s).toNat =
    (busy s).toNat + 2 * (doneFlag s).toNat + 4 * s.err.toNat + 16 * (phaseNumber s.phase).toNat +
      256 * s.errCode.toNat := by
  have busyBound := (busy s).toNat_le
  have doneBound := (doneFlag s).toNat_le
  have errBound := s.err.toNat_le
  have phaseBound := (phaseNumber s.phase).isLt
  have codeBound := s.errCode.isLt
  have phaseWord : ((phaseNumber s.phase).setWidth 32).toNat = (phaseNumber s.phase).toNat := by
    rw [BitVec.toNat_setWidth]; omega
  have codeWord : (s.errCode.setWidth 32).toNat = s.errCode.toNat := by
    rw [BitVec.toNat_setWidth]; omega
  have withDone := toNat_or_shiftLeft (low := flagWord (busy s)) (field := flagWord (doneFlag s)) (k := 1)
    (by rw [flagWord_toNat]; omega) (by rw [flagWord_toNat]; omega)
  rw [flagWord_toNat, flagWord_toNat] at withDone
  have withErr := toNat_or_shiftLeft (field := flagWord s.err) (k := 2)
    (by rw [withDone]; omega) (by rw [flagWord_toNat]; omega)
  rw [withDone, flagWord_toNat] at withErr
  have withPhase := toNat_or_shiftLeft (field := (phaseNumber s.phase).setWidth 32) (k := 4)
    (by rw [withErr]; omega) (by rw [phaseWord]; omega)
  rw [withErr, phaseWord] at withPhase
  have withCode := toNat_or_shiftLeft (field := s.errCode.setWidth 32) (k := 8)
    (by rw [withPhase]; omega) (by rw [codeWord]; omega)
  rw [withPhase, codeWord] at withCode
  exact withCode

theorem busy_toNat (s : State) : (busy s).toNat = if s.pending ≠ [] then 1 else 0 := by
  unfold busy; cases s.pending <;> rfl

theorem statusWord_reset : statusWord State.reset = 0 := by
  decide

/-- Settles O27: STATUS as a number is the sum of its fields at their places. -/
theorem statusWordFields : Obligations.StatusWordFields := by
  refine ⟨fun s => ?_, fun _ _ => rfl, statusWord_reset⟩
  rw [statusWord_toNat, busy_toNat, doneFlag]
  cases s.phase <;> cases s.err <;> rfl

/-- Settles O60: the fields are State.reset's own, and BUSY and STATUS are computed from them. -/
theorem resetStateFields : Obligations.ResetStateFields :=
  ⟨rfl, rfl, busy_eq_false.mpr rfl, rfl, rfl, rfl, rfl, rfl, statusWord_reset⟩

/-! ### LEN_LO and LEN_HI -/

theorem lenWord_lo_toNat (len : BitVec 61) : (lenWord len .lo).toNat = len.toNat % 2 ^ 32 := by
  simp [lenWord]

theorem lenWord_hi_toNat (len : BitVec 61) : (lenWord len .hi).toNat = len.toNat / 2 ^ 32 := by
  have := len.isLt
  simp only [lenWord, BitVec.toNat_setWidth, BitVec.extractLsb'_toNat, Nat.shiftRight_eq_div_pow]
  omega

/-- Settles O28: the two words are the remainder and the quotient of LEN by 2^32. -/
theorem readLenSplitsCounter : Obligations.ReadLenSplitsCounter := by
  refine ⟨fun s => ⟨lenWord s.len .lo, lenWord s.len .hi, rfl, rfl, lenWord_lo_toNat s.len, lenWord_hi_toNat s.len, ?_⟩,
    fun _ _ _ => rfl, rfl⟩
  have := s.len.isLt
  rw [lenWord_hi_toNat]; omega

end Sys2Proof.Machine
end

section
/-! What the lanes of DATA_IN beyond the count, H and BUF cannot influence (10_state R35, R42). -/

namespace Sys2Proof.Machine

/-! ### ABSORB, by its count -/

/-- An ABSORB with a legal count stands behind both gates (40_commands R103). -/
theorem exec_absorb_of_legal {cnt : BitVec 3} (legal : countLegal cnt = true) (s : State) :
    exec (.absorb cnt) s = .next (commandGate (messageGate (absorbBytes cnt.toNat)) s) :=
  if_pos legal

/-- An ABSORB with another count records BAD_COUNT behind the command gate (60_exceptions R203). -/
theorem exec_absorb_of_illegal {cnt : BitVec 3} (illegal : ¬ countLegal cnt = true) (s : State) :
    exec (.absorb cnt) s = .next (commandGate (raiseError .badCount) s) :=
  if_neg illegal

/-! ### Another value in DATA_IN -/

theorem raiseError_setDataIn (e : ErrorCode) (w : Word) (s : State) :
    raiseError e (setDataIn w s) = setDataIn w (raiseError e s) := by
  cases h : s.err <;> simp [raiseError, setDataIn, h]

theorem appendByte_setDataIn (b : Byte) (w : Word) (s : State) :
    appendByte (setDataIn w s) b = setDataIn w (appendByte s b) := by
  by_cases full : s.bufCnt.val + 1 = 64 <;> simp [appendByte, setDataIn, full]

theorem appendBytes_setDataIn (bs : List Byte) (w : Word) (s : State) :
    appendBytes bs (setDataIn w s) = setDataIn w (appendBytes bs s) := by
  induction bs generalizing s with
  | nil => rfl
  | cons b bs ih =>
    calc appendBytes bs (appendByte (setDataIn w s) b)
      _ = appendBytes bs (setDataIn w (appendByte s b)) := by rw [appendByte_setDataIn]
      _ = setDataIn w (appendBytes bs (appendByte s b)) := ih _

/-- ABSORB's loop takes nothing from DATA_IN but the first `n` lanes (40_commands R103). -/
theorem absorbBytes_setDataIn {n : Nat} {w : Word} {s : State} (lanes : laneBytes w n = laneBytes s.dataIn n) :
    absorbBytes n (setDataIn w s) = setDataIn w (absorbBytes n s) := by
  unfold absorbBytes
  rw [setDataIn_len, setDataIn_dataIn, lanes, raiseError_setDataIn, appendBytes_setDataIn]
  split <;> rfl

theorem messageGate_setDataIn {body : State → State} {w : Word} {s : State}
    (h : body (setDataIn w s) = setDataIn w (body s)) :
    messageGate body (setDataIn w s) = setDataIn w (messageGate body s) := by
  unfold messageGate
  rw [setDataIn_err, setDataIn_phase, h, raiseError_setDataIn]
  split_ifs <;> rfl

theorem commandGate_setDataIn {body : State → State} {w : Word} {s : State}
    (h : body (setDataIn w s) = setDataIn w (body s)) :
    commandGate body (setDataIn w s) = setDataIn w (commandGate body s) := by
  have same : busy (setDataIn w s) = busy s := rfl
  unfold commandGate
  rw [same, h, raiseError_setDataIn]
  split <;> rfl

/-- Settles O18: each operation of ABSORB commutes with another value in DATA_IN that has the same first lanes. -/
theorem upperLanesIgnored : Obligations.UpperLanesIgnored := by
  intro cnt s t w agree h
  have lanes : laneBytes w cnt.toNat = laneBytes s.dataIn cnt.toNat :=
    List.map_congr_left fun j hj => agree j (List.mem_range.mp hj)
  change exec (.absorb cnt) (setDataIn w s) = .next (setDataIn w t)
  by_cases legal : countLegal cnt = true
  · rw [exec_absorb_of_legal legal] at h ⊢
    cases h
    rw [commandGate_setDataIn (messageGate_setDataIn (absorbBytes_setDataIn lanes))]
  · rw [exec_absorb_of_illegal legal] at h ⊢
    cases h
    rw [commandGate_setDataIn (raiseError_setDataIn _ _ _)]

/-! ### Other words in H and other bytes in BUF -/

/-- `t` is `s` with other contents in H, in BUF and in the pending blocks, of which there are as many. -/
def HiddenVariant (s t : State) : Prop :=
  ∃ (x : Words8) (b : Block) (q : List Block), q.length = s.pending.length ∧
    t = { s with h := x, buf := b, pending := q }

section HiddenVariant
variable {s t : State}

theorem HiddenVariant.phase (hv : HiddenVariant s t) : t.phase = s.phase := by
  obtain ⟨x, b, q, -, rfl⟩ := hv; rfl

theorem HiddenVariant.err (hv : HiddenVariant s t) : t.err = s.err := by
  obtain ⟨x, b, q, -, rfl⟩ := hv; rfl

theorem HiddenVariant.len (hv : HiddenVariant s t) : t.len = s.len := by
  obtain ⟨x, b, q, -, rfl⟩ := hv; rfl

theorem HiddenVariant.dataIn (hv : HiddenVariant s t) : t.dataIn = s.dataIn := by
  obtain ⟨x, b, q, -, rfl⟩ := hv; rfl

theorem HiddenVariant.seed (hv : HiddenVariant s t) : t.seed = s.seed := by
  obtain ⟨x, b, q, -, rfl⟩ := hv; rfl

theorem HiddenVariant.digest (hv : HiddenVariant s t) : t.digest = s.digest := by
  obtain ⟨x, b, q, -, rfl⟩ := hv; rfl

/-- BUSY counts the pending blocks and does not look into them (10_state R24). -/
theorem HiddenVariant.busy_eq (hv : HiddenVariant s t) : busy t = busy s := by
  obtain ⟨x, b, q, count, rfl⟩ := hv
  rw [Bool.eq_iff_iff, busy_eq_true, busy_eq_true, ← List.length_pos_iff, ← List.length_pos_iff]
  change 0 < q.length ↔ _
  rw [count]

/-- STATUS does not show H, BUF or the contents of PENDING (10_state R34). -/
theorem HiddenVariant.statusWord_eq (hv : HiddenVariant s t) : statusWord t = statusWord s := by
  have same := hv.busy_eq
  obtain ⟨x, b, q, -, rfl⟩ := hv
  unfold statusWord
  rw [same]; rfl

theorem HiddenVariant.after_raiseError (hv : HiddenVariant s t) (e : ErrorCode) :
    HiddenVariant (raiseError e s) (raiseError e t) := by
  obtain ⟨x, b, q, count, rfl⟩ := hv
  refine ⟨x, b, q, by simpa using count, ?_⟩
  cases h : s.err <;> simp [raiseError, h]

theorem HiddenVariant.after_openMessage (hv : HiddenVariant s t) :
    HiddenVariant (openMessage s) (openMessage t) := by
  obtain ⟨x, b, q, count, rfl⟩ := hv
  exact ⟨initialHash, b, q, count, rfl⟩

/-- Whether a byte fills the buffer depends on BUFCNT only (40_commands R103). -/
theorem HiddenVariant.after_appendByte (hv : HiddenVariant s t) (c : Byte) :
    HiddenVariant (appendByte s c) (appendByte t c) := by
  obtain ⟨x, b, q, count, rfl⟩ := hv
  unfold appendByte; dsimp only
  split
  · exact ⟨x, _, _, by simp [count], rfl⟩
  · exact ⟨x, _, q, count, rfl⟩

theorem HiddenVariant.after_appendBytes (hv : HiddenVariant s t) (bs : List Byte) :
    HiddenVariant (appendBytes bs s) (appendBytes bs t) := by
  induction bs generalizing s t with
  | nil => exact hv
  | cons c bs ih => exact ih (hv.after_appendByte c)

theorem HiddenVariant.after_countBytes (hv : HiddenVariant s t) (n : Nat) :
    HiddenVariant (countBytes n s) (countBytes n t) := by
  obtain ⟨x, b, q, count, rfl⟩ := hv
  exact ⟨x, b, q, count, rfl⟩

theorem HiddenVariant.after_absorbBytes (hv : HiddenVariant s t) (n : Nat) :
    HiddenVariant (absorbBytes n s) (absorbBytes n t) := by
  unfold absorbBytes
  rw [hv.len, hv.dataIn]
  split
  · exact hv.after_raiseError _
  · exact (hv.after_appendBytes _).after_countBytes n

/-- FINAL queues as many blocks whatever the buffered bytes are: their number depends on BUFCNT only (40_commands R104). -/
theorem HiddenVariant.after_closeMessage (hv : HiddenVariant s t) :
    HiddenVariant (closeMessage s) (closeMessage t) := by
  obtain ⟨x, b, q, count, rfl⟩ := hv
  refine ⟨x, b, q ++ finalBlocks { s with h := x, buf := b, pending := q }, ?_, rfl⟩
  simp [finalBlocks_length, count]

theorem HiddenVariant.after_messageGate (hv : HiddenVariant s t) {body : State → State}
    (h : HiddenVariant (body s) (body t)) : HiddenVariant (messageGate body s) (messageGate body t) := by
  unfold messageGate
  rw [hv.err, hv.phase]
  split_ifs
  · exact hv
  · exact hv.after_raiseError _
  · exact h

theorem HiddenVariant.after_commandGate (hv : HiddenVariant s t) {body : State → State}
    (h : HiddenVariant (body s) (body t)) : HiddenVariant (commandGate body s) (commandGate body t) := by
  unfold commandGate
  rw [hv.busy_eq]
  split
  · exact hv.after_raiseError _
  · exact h

theorem HiddenVariant.after_setDataIn (hv : HiddenVariant s t) (v : Word) :
    HiddenVariant (setDataIn v s) (setDataIn v t) := by
  obtain ⟨x, b, q, count, rfl⟩ := hv
  exact ⟨x, b, q, count, rfl⟩

/-- A read that returns the same value in both states. -/
theorem HiddenVariant.after_receive (hv : HiddenVariant s t) (r : Reg) {v w : Word} (same : w = v) :
    HiddenVariant (receive r v s) (receive r w t) := by
  obtain ⟨x, b, q, count, rfl⟩ := hv
  exact ⟨x, b, q, count, by rw [same]; rfl⟩

/-- A read of an output register: the same stored word in DONE, the same draw otherwise (log 5). -/
theorem HiddenVariant.after_receiveOutput (hv : HiddenVariant s t) (r : Reg) {v w : Word} (same : w = v) :
    HiddenVariant (receiveOutput r v s) (receiveOutput r w t) := by
  unfold receiveOutput
  rw [hv.phase]
  split
  · exact hv.after_receive r same
  · obtain ⟨x, b, q, count, rfl⟩ := hv
    exact ⟨x, b, q, count, rfl⟩

/-- Every instruction takes hidden variants to hidden variants (10_state R42). -/
theorem HiddenVariant.after_exec (hv : HiddenVariant s t) {i : Instr} {u : State} (h : exec i s = .next u) :
    ∃ u', exec i t = .next u' ∧ HiddenVariant u u' := by
  cases i with
  | nop => cases h; exact ⟨_, rfl, hv.after_commandGate hv⟩
  | init => cases h; exact ⟨_, rfl, hv.after_commandGate hv.after_openMessage⟩
  | absorb cnt =>
    by_cases legal : countLegal cnt = true
    · rw [exec_absorb_of_legal legal] at h ⊢
      cases h
      exact ⟨_, rfl, hv.after_commandGate (hv.after_messageGate (hv.after_absorbBytes _))⟩
    · rw [exec_absorb_of_illegal legal] at h ⊢
      cases h
      exact ⟨_, rfl, hv.after_commandGate (hv.after_raiseError _)⟩
  | final => cases h; exact ⟨_, rfl, hv.after_commandGate (hv.after_messageGate hv.after_closeMessage)⟩
  | writeDataIn v => cases h; exact ⟨_, rfl, hv.after_setDataIn v⟩
  | readDataIn => cases h; exact ⟨_, rfl, hv.after_receive _ hv.dataIn⟩
  | readStatus => cases h; exact ⟨_, rfl, hv.after_receive _ hv.statusWord_eq⟩
  | readLen half => cases h; exact ⟨_, rfl, hv.after_receive _ (by rw [hv.len])⟩
  | readSeed k => cases h; exact ⟨_, rfl, hv.after_receiveOutput _ (by rw [hv.seed])⟩
  | readDigest k => cases h; exact ⟨_, rfl, hv.after_receiveOutput _ (by rw [hv.digest])⟩
  | readCmd => cases h; exact ⟨_, rfl, hv.after_receive _ rfl⟩
  | writeReadOnly r v => cases h; exact ⟨_, rfl, hv⟩
  | accessReserved r a =>
    cases a with
    | read => cases h; exact ⟨_, rfl, hv.after_receive _ rfl⟩
    | write v => cases h; exact ⟨_, rfl, hv⟩

end HiddenVariant

/-- Settles O34: the two states are hidden variants of each other, and so are their next states. -/
theorem hiddenStateUnobservable : Obligations.HiddenStateUnobservable := by
  intro i s t x b h
  have hv : HiddenVariant s { s with h := x, buf := b } := ⟨x, b, s.pending, rfl, rfl⟩
  obtain ⟨t', h', after⟩ := hv.after_exec h
  have status := after.statusWord_eq
  obtain ⟨y, c, q, count, rfl⟩ := after
  exact ⟨_, h', rfl, status, rfl, rfl, rfl, count⟩

end Sys2Proof.Machine
end

section
/-! The bus accesses of 20_memory: which are refused, what a read leaves and returns again, and the order of the byte lanes
(20_memory R52, R54, R59). -/

namespace Sys2Proof.Machine

/-! ### Which accesses have a next state -/

/-- BASE is 4-byte aligned, so an offset into the window is aligned when its address is (20_memory R60). -/
theorem offset_mod_four {s : State} {addr : Nat} (above : base s ≤ addr) : (addr - base s) % 4 = addr % 4 := by
  simp only [base, Config.windowBytes] at above ⊢
  omega

/-- The accesses that reach no register are the three kinds of R52, by width, address and alignment (20_memory R52). -/
theorem exists_locate_error_iff (s : State) (addr width : Nat) :
    (∃ r, locate (base s) addr width = .error r) ↔
      width ≠ 4 ∨ addr % 4 ≠ 0 ∨ addr < base s ∨ base s + 0x7F < addr := by
  have size : Config.windowBytes = 0x80 := rfl
  constructor
  · rintro ⟨r, missed⟩
    rcases locate_error missed with ⟨-, width⟩ | ⟨-, -, outside⟩ | ⟨-, -, above, -, misaligned⟩
    · exact .inl width
    · omega
    · rw [offset_mod_four above] at misaligned
      exact .inr (.inl misaligned)
  · intro illegal
    cases reached : locate (base s) addr width with
    | error r => exact ⟨r, rfl⟩
    | ok r =>
      obtain ⟨width, above, below, aligned, -⟩ := locate_ok reached
      rw [offset_mod_four above] at aligned
      omega

/-- Decoding refuses an access exactly when it reaches no register (20_memory R52). -/
theorem exists_decodeAccess_refused_iff {b addr width : Nat} {v : Word} {a : BusAccess}
    (form : a = .read addr width ∨ a = .write addr width v) :
    (∃ r, decodeAccess b a = .refused r) ↔ ∃ r, locate b addr width = .error r := by
  constructor
  · rintro ⟨r, refused⟩
    obtain ⟨addr', width', form', missed⟩ := decodeAccess_refused refused
    rcases form with rfl | rfl <;> rcases form' with ⟨_, same⟩ | same <;> cases same <;> exact ⟨r, missed⟩
  · rintro ⟨r, missed⟩
    rcases form with rfl | rfl <;> exact ⟨r, by rw [decodeAccess, missed]⟩

/-- Every instruction has a next state in every state (60_exceptions R200). -/
theorem exec_total (i : Instr) (s : State) : ∃ t, exec i s = .next t := by
  cases i with
  | absorb cnt =>
    by_cases legal : countLegal cnt = true
    · exact ⟨_, exec_absorb_of_legal legal s⟩
    · exact ⟨_, exec_absorb_of_illegal legal s⟩
  | accessReserved r a => cases a <;> exact ⟨_, rfl⟩
  | _ => exact ⟨_, rfl⟩

/-- An access that decoding does not refuse has a next state: it runs an instruction or records an error
(40_commands R100). -/
theorem hostAccess_next_of_not_refused {a : BusAccess} {s : State}
    (admitted : ¬ ∃ r, decodeAccess (base s) a = .refused r) : ∃ t, hostAccess a s = .next t := by
  rcases hostAccess_cases a s with ⟨i, -, runs⟩ | ⟨e, -, records⟩ | ⟨r, refused, -⟩
  · rw [runs]; exact exec_total i s
  · exact ⟨_, records⟩
  · exact absurd ⟨r, refused⟩ admitted

/-- Settles O7: an access is refused by decoding exactly when it is of a kind that R52 lists. -/
theorem refusedAccessesAreTheIllegalOnes : Obligations.RefusedAccessesAreTheIllegalOnes := by
  intro s addr width v a form
  rw [← exists_locate_error_iff, ← exists_decodeAccess_refused_iff form]
  refine ⟨?_, hostAccess_next_of_not_refused⟩
  rintro ⟨r, refused⟩
  exact ⟨refusalOf r, by rw [hostAccess, refused]⟩

/-! ### Lane order -/

/-- A lane of a word packed by le32 is the message byte at that place (20_memory R54). -/
theorem lane_le32 (m : List Byte) (k : Nat) {j : Nat} (inside : j < 4) : lane (le32 m k) j = byteAt m (k + j) := by
  unfold lane le32
  match j, inside with
  | 0, _ => exact BitVec.extractLsb'_append_eq_right
  | 1, _ =>
    rw [BitVec.extractLsb'_append_eq_of_le (by decide)]
    exact BitVec.extractLsb'_append_eq_right
  | 2, _ =>
    rw [BitVec.extractLsb'_append_eq_of_le (by decide), BitVec.extractLsb'_append_eq_of_le (by decide)]
    exact BitVec.extractLsb'_append_eq_right
  | 3, _ =>
    rw [BitVec.extractLsb'_append_eq_of_le (by decide), BitVec.extractLsb'_append_eq_of_le (by decide),
      BitVec.extractLsb'_append_eq_of_le (by decide)]
    exact BitVec.extractLsb'_eq_self

/-- A run of bytes inside a byte string, byte by byte. -/
theorem map_byteAt_range {m : List Byte} {k n : Nat} (inside : k + n ≤ m.length) :
    ((List.range n).map fun j => byteAt m (k + j)) = (m.drop k).take n := by
  refine List.ext_getElem (by simp; omega) fun j _ right => ?_
  have place : k + j < m.length := by simp at right; omega
  simp [byteAt, place]

/-- Settles O17: lane by lane, le32 gives the bytes back in message order. -/
theorem lanesInMessageOrder : Obligations.LanesInMessageOrder := by
  refine ⟨fun _ _ => rfl, fun m k inside => ?_⟩
  calc laneBytes (le32 m k) 4
    _ = (List.range 4).map fun j => byteAt m (k + j) :=
      List.map_congr_left fun j hj => lane_le32 m k (List.mem_range.mp hj)
    _ = (m.drop k).take 4 := map_byteAt_range inside

/-! ### Reads -/

/-- The word that the block holds for a read of a register (40_commands R106 to R111, R113). -/
def storedWord (s : State) : Reg → Word
  | .cmd => 0
  | .dataIn => s.dataIn
  | .readOnly .status => statusWord s
  | .readOnly (.len half) => lenWord s.len half
  | .readOnly (.seed i) => s.seed[i]
  | .readOnly (.digest i) => s.digest[i]
  | .reserved _ => 0

/-- What the host has read does not change what the block holds (20_memory R59). -/
theorem storedWord_receive (r q : Reg) (v : Word) (s : State) : storedWord (receive q v s) r = storedWord s r := by
  cases r with
  | readOnly r => cases r <;> rfl
  | _ => rfl

/-- A read of `r` returns the word held and no draw: in DONE, or when `r` is neither SEED nor DIGEST (20_memory R59). -/
def ReadsStored (s : State) (r : Reg) : Prop :=
  s.phase = .done ∨ ∀ i, r ≠ .readOnly (.seed i) ∧ r ≠ .readOnly (.digest i)

theorem ReadsStored.after_receive {s : State} {r : Reg} (stored : ReadsStored s r) (q : Reg) (v : Word) :
    ReadsStored (receive q v s) r :=
  stored

theorem exec_readInstr_of_readsStored {s : State} {r : Reg} (stored : ReadsStored s r) :
    exec (readInstr r) s = .next (receive r (storedWord s r) s) := by
  match r, stored with
  | .cmd, _ => rfl
  | .dataIn, _ => rfl
  | .readOnly .status, _ => rfl
  | .readOnly (.len _), _ => rfl
  | .reserved _, _ => rfl
  | .readOnly (.seed _), .inl done => exact congrArg _ (if_pos done)
  | .readOnly (.digest _), .inl done => exact congrArg _ (if_pos done)
  | .readOnly (.seed i), .inr other => exact absurd rfl (other i).1
  | .readOnly (.digest i), .inr other => exact absurd rfl (other i).2

theorem exec_readInstr_of_not_readsStored {s : State} {r : Reg} (unstored : ¬ ReadsStored s r) :
    exec (readInstr r) s = .next (receiveDraw r s) := by
  obtain ⟨running, i, output⟩ : s.phase ≠ .done ∧ ∃ i, r = .readOnly (.seed i) ∨ r = .readOnly (.digest i) := by
    simpa only [ReadsStored, not_or, not_forall, not_and_or, not_not] using unstored
  rcases output with rfl | rfl
  · exact congrArg _ (if_neg running)
  · exact congrArg _ (if_neg running)

/-- A read that reaches a register runs its reading instruction (20_memory R51). -/
theorem hostAccess_read_of_locate {s : State} {addr width : Nat} {r : Reg}
    (reached : locate (base s) addr width = .ok r) : hostAccess (.read addr width) s = exec (readInstr r) s := by
  rw [hostAccess, decodeAccess, reached]

/-- A read with a next state has reached a register (20_memory R52). -/
theorem locate_of_hostAccess_read {s t : State} {addr width : Nat} (h : hostAccess (.read addr width) s = .next t) :
    ∃ r, locate (base s) addr width = .ok r := by
  cases reached : locate (base s) addr width with
  | ok r => exact ⟨r, rfl⟩
  | error r => rw [hostAccess, decodeAccess, reached] at h; cases h

/-- Settles O32: a read adds the word held or a draw to the readings; neither BASE nor a word held depends on them. -/
theorem readsHaveNoSideEffect : Obligations.ReadsHaveNoSideEffect := by
  intro addr s t h
  obtain ⟨r, reached⟩ := locate_of_hostAccess_read h
  rw [hostAccess_read_of_locate reached] at h
  by_cases stored : ReadsStored s r
  · rw [exec_readInstr_of_readsStored stored] at h
    cases h
    refine ⟨r, storedWord s r, rfl, fun _ => ⟨rfl, ?_⟩⟩
    rw [hostAccess_read_of_locate (s := receive r _ s) reached,
      exec_readInstr_of_readsStored (stored.after_receive r _), storedWord_receive]
    rfl
  · rw [exec_readInstr_of_not_readsStored stored] at h
    cases h
    exact ⟨r, Config.draw s.draws, rfl, fun again => absurd again stored⟩

end Sys2Proof.Machine
end

section
/-! The command words and the accesses that ask for an instruction (30_encoding R71 to R75, R80, R82; 10_state R32). -/

namespace Sys2Proof

/-! ### Command words -/

/-- Settles O4: the fields of a word are parts of its number. -/
theorem decodeInOrder : Obligations.DecodeInOrder := by
  intro v
  obtain ⟨opc, cnt, rsv⟩ := commandFields_toNat v
  have count : BitVec.ofNat 3 (v.toNat / 256 % 8) = cntField v := by rw [← cnt, BitVec.ofNat_toNat, BitVec.setWidth_eq]
  have legal : countLegal (cntField v) = false ↔ ¬ (1 ≤ v.toNat / 256 % 8 ∧ v.toNat / 256 % 8 ≤ 4) := by
    rw [← cnt, ← countLegal_iff, Bool.not_eq_true]
  simp only [decodeCommand, count, legal, opc, ← BitVec.toNat_inj, cnt, rsv, ne_eq]
  rfl

/-- ABSORB's word as a number: the count above the opcode (30_encoding R80). -/
theorem absorbWord_toNat (cnt : BitVec 3) : (absorbWord cnt).toNat = 256 * cnt.toNat + 2 := by
  revert cnt; decide

/-- A word that decodes to an instruction is that command's word (30_encoding R74, R80). -/
theorem word_of_decodeCommand {v : Word} {i : Instr} (h : decodeCommand v = .instr i) :
    (v = 0x00000000#32 ∧ i = .nop) ∨ (v = 0x00000001#32 ∧ i = .init) ∨
      (∃ cnt, countLegal cnt = true ∧ v = absorbWord cnt ∧ i = .absorb cnt) ∨ (v = 0x00000003#32 ∧ i = .final) := by
  have word {w : Word} (same : v.toNat = w.toNat) : v = w := BitVec.eq_of_toNat_eq same
  rw [decodeInOrder v] at h
  split_ifs at h with opcode reserved zeros count nop init absorb <;> cases h
  · exact .inl ⟨word (show v.toNat = 0 by omega), rfl⟩
  · exact .inr (.inl ⟨word (show v.toNat = 1 by omega), rfl⟩)
  · have cnt : (BitVec.ofNat 3 (v.toNat / 256 % 8)).toNat = v.toNat / 256 % 8 := by
      rw [BitVec.toNat_ofNat]; omega
    refine .inr (.inr (.inl ⟨_, (countLegal_iff _).mpr (by rw [cnt]; omega), word ?_, rfl⟩))
    rw [absorbWord_toNat, cnt]; omega
  · exact .inr (.inr (.inr ⟨word (show v.toNat = 3 by omega), rfl⟩))

/-- The word of an ABSORB with a legal count decodes to it (30_encoding R74, R80). -/
theorem decodeCommand_absorbWord {cnt : BitVec 3} (legal : countLegal cnt = true) :
    decodeCommand (absorbWord cnt) = .instr (.absorb cnt) := by
  revert cnt; decide

/-- Settles O3: each instruction has its one word, and ABSORB's legal counts are four. -/
theorem sevenLegalCommandWords : Obligations.SevenLegalCommandWords := by
  refine ⟨fun v i => ⟨fun h => ?_, ?_⟩, fun v none => ?_, fun v reserved => ?_⟩
  · rcases word_of_decodeCommand h with nop | init | ⟨cnt, legal, rfl, rfl⟩ | final
    · exact .inl nop
    · exact .inr (.inl init)
    · revert cnt; decide
    · exact .inr (.inr (.inr (.inr (.inr (.inr final)))))
  · rintro (⟨rfl, rfl⟩ | ⟨rfl, rfl⟩ | ⟨rfl, rfl⟩ | ⟨rfl, rfl⟩ | ⟨rfl, rfl⟩ | ⟨rfl, rfl⟩ | ⟨rfl, rfl⟩) <;> rfl
  · cases h : decodeCommand v with
    | instr i => exact absurd h (none i)
    | illegal e => exact ⟨e, rfl⟩
    | refused r => exact absurd h (decodeCommand_ne_refused v r)
  · rw [decodeInOrder v, if_pos reserved]

/-- Settles O5: the ten words of the rule, evaluated. -/
theorem encodingExamples : Obligations.EncodingExamples :=
  ⟨rfl, rfl, rfl, rfl, rfl, rfl, rfl, rfl, rfl, rfl⟩

/-! ### Accesses -/

/-- A read at a register's offset asks for that register's reading instruction (20_memory R51). -/
theorem decodeAccess_read_regOffset (base : Nat) (r : Reg) :
    decodeAccess base (.read (base + regOffset r) 4) = .instr (readInstr r) := by
  rw [decodeAccess, locate_regOffset]

/-- A write at a register's offset decodes as that register says (20_memory R51). -/
theorem decodeAccess_write_regOffset (base : Nat) (r : Reg) (v : Word) :
    decodeAccess base (.write (base + regOffset r) 4 v) = decodeWrite r v := by
  rw [decodeAccess, locate_regOffset]

/-- An access that reaches a register is a 4-byte one at its offset (20_memory R51). -/
theorem eq_regOffset_of_locate {base addr width : Nat} {r : Reg} (reached : locate base addr width = .ok r) :
    addr = base + regOffset r ∧ width = 4 := by
  obtain ⟨rfl, above, below, aligned, rfl⟩ := locate_ok reached
  rw [Config.windowBytes] at below
  rw [regOffset_regAtIndex _ (by omega)]
  omega

/-- The access that encodes a register's reading instruction is the read at its offset (10_state R32). -/
theorem encode_readInstr (base : Nat) (r : Reg) :
    wellFormed (readInstr r) = true ∧ encode base (readInstr r) = .read (base + regOffset r) 4 := by
  cases r with
  | readOnly r => cases r <;> exact ⟨rfl, rfl⟩
  | _ => exact ⟨rfl, rfl⟩

/-- The access that encodes what a write decodes to is that write (30_encoding R74, 10_state R32). -/
theorem encode_of_decodeWrite (base : Nat) {r : Reg} {v : Word} {i : Instr} (h : decodeWrite r v = .instr i) :
    wellFormed i = true ∧ encode base i = .write (base + regOffset r) 4 v := by
  cases r with
  | cmd =>
    rcases word_of_decodeCommand h with ⟨rfl, rfl⟩ | ⟨rfl, rfl⟩ | ⟨cnt, legal, rfl, rfl⟩ | ⟨rfl, rfl⟩
    · exact ⟨rfl, rfl⟩
    · exact ⟨rfl, rfl⟩
    · exact ⟨legal, rfl⟩
    · exact ⟨rfl, rfl⟩
  | dataIn => cases h; exact ⟨rfl, rfl⟩
  | readOnly r => cases h; exact ⟨rfl, rfl⟩
  | reserved r => cases h; exact ⟨rfl, rfl⟩

/-- Settles O1: each instruction's access reaches its register, and a command's word decodes to the command. -/
theorem decodeAfterEncode : Obligations.DecodeAfterEncode := by
  intro base i wf
  cases i with
  | absorb cnt => exact (decodeAccess_write_regOffset base .cmd _).trans (decodeCommand_absorbWord wf)
  | nop | init | final => exact decodeAccess_write_regOffset base .cmd _
  | writeDataIn | writeReadOnly => exact decodeAccess_write_regOffset base _ _
  | readDataIn | readStatus | readLen | readSeed | readDigest | readCmd => exact decodeAccess_read_regOffset base _
  | accessReserved r a =>
    cases a with
    | read => exact decodeAccess_read_regOffset base (.reserved r)
    | write v => exact decodeAccess_write_regOffset base (.reserved r) v

/-- Settles O2: an access that decodes lies at the offset of one register, and its word is the instruction's. -/
theorem encodeAfterDecode : Obligations.EncodeAfterDecode := by
  intro base a i h
  cases a with
  | read addr width =>
    obtain ⟨r, reached, rfl⟩ := decodeAccess_read_instr h
    obtain ⟨rfl, rfl⟩ := eq_regOffset_of_locate reached
    obtain ⟨wf, encoded⟩ := encode_readInstr base r
    exact ⟨wf, encoded.symm⟩
  | write addr width v =>
    obtain ⟨r, reached, written⟩ := decodeAccess_write_instr h
    obtain ⟨rfl, rfl⟩ := eq_regOffset_of_locate reached
    obtain ⟨wf, encoded⟩ := encode_of_decodeWrite base written
    exact ⟨wf, encoded.symm⟩

end Sys2Proof
end

section
/-! The message that the block serves (41_sha256_engine R140, R142, R150, R153): what INIT, ABSORB, FINAL and the engine's
turn do to it. -/

namespace Sys2Proof.Machine

/-! ### Blocks of a byte string -/

/-- The bytes of some blocks, in order. -/
def blockBytes (bs : List Block) : List Byte := bs.flatMap Vector.toList

theorem blockBytes_append (bs cs : List Block) : blockBytes (bs ++ cs) = blockBytes bs ++ blockBytes cs :=
  List.flatMap_append

theorem blockBytes_singleton (b : Block) : blockBytes [b] = b.toList :=
  List.flatMap_singleton ..

theorem blockBytes_length (bs : List Block) : (blockBytes bs).length = 64 * bs.length := by
  induction bs with
  | nil => rfl
  | cons b bs ih => simp [blockBytes] at ih ⊢; omega

/-- A string that begins with a block's bytes gives that block back. -/
theorem toBlock_append (b : Block) (t : List Byte) : toBlock (b.toList ++ t) = b := by
  apply Vector.toList_inj.mp
  rw [toBlock_toList _ (by simp), List.take_left' (by simp)]

/-- A string shorter than a block holds no block. -/
theorem blocksOf_of_short {t : List Byte} (short : t.length < 64) : blocksOf t = [] := by
  simp [blocksOf, Nat.div_eq_of_lt short]

/-- The blocks of a string that begins with a block. -/
theorem blocksOf_cons (b : Block) (t : List Byte) : blocksOf (b.toList ++ t) = b :: blocksOf t := by
  have later (j : Nat) : (b.toList ++ t).drop (64 * (j + 1)) = t.drop (64 * j) := by
    rw [Nat.mul_succ, Nat.add_comm, ← List.drop_drop, List.drop_left' (by simp)]
  simp [blocksOf, List.range_succ_eq_map, later, toBlock_append, Function.comp_def]

/-- The blocks of a string that begins with whole blocks. -/
theorem blocksOf_blockBytes_append (bs : List Block) (t : List Byte) :
    blocksOf (blockBytes bs ++ t) = bs ++ blocksOf t := by
  induction bs with
  | nil => rfl
  | cons b bs ih =>
    calc blocksOf (b.toList ++ blockBytes bs ++ t)
      _ = b :: blocksOf (blockBytes bs ++ t) := by rw [List.append_assoc, blocksOf_cons]
      _ = b :: bs ++ blocksOf t := by rw [ih]; rfl

/-- Every string is whole blocks and a rest shorter than a block. -/
theorem exists_blockBytes_append (m : List Byte) : ∃ bs t, t.length < 64 ∧ m = blockBytes bs ++ t := by
  by_cases short : m.length < 64
  · exact ⟨[], m, short, rfl⟩
  · obtain ⟨bs, t, rest, dropped⟩ := exists_blockBytes_append (m.drop 64)
    refine ⟨toBlock m :: bs, t, rest, ?_⟩
    calc m
      _ = m.take 64 ++ m.drop 64 := (List.take_append_drop 64 m).symm
      _ = (toBlock m).toList ++ (blockBytes bs ++ t) := by rw [toBlock_toList m (by omega), ← dropped]
      _ = blockBytes (toBlock m :: bs) ++ t := (List.append_assoc ..).symm
termination_by m.length
decreasing_by simp; omega

/-! ### The padded message -/

/-- The padding depends on the length of a string only modulo 64 (41 R142). -/
theorem pad_blockBytes_append (bs : List Block) (t : List Byte) (l : Nat) :
    pad (blockBytes bs ++ t) l = blockBytes bs ++ pad t l := by
  have zeros : padZeros (blockBytes bs ++ t).length = padZeros t.length := by
    rw [List.length_append, blockBytes_length]
    unfold padZeros
    omega
  unfold pad
  rw [zeros]
  simp

theorem validBytes_length (s : State) : (validBytes s).length = s.bufCnt.val := by
  simp [validBytes]

/-- FINAL queues the blocks of the padded valid bytes (40_commands R104). -/
theorem finalBlocks_eq_blocksOf (s : State) : finalBlocks s = blocksOf (pad (validBytes s) s.len.toNat) := by
  have bound := s.bufCnt.isLt
  have length := pad_length (validBytes s) s.len.toNat (by rw [validBytes_length]; omega)
  unfold finalBlocks blocksOf
  dsimp only
  rw [length]
  split <;> rfl

/-! ### The open message -/

/-- The open message is whole blocks, which H has taken up once the pending ones are compressed, and the valid bytes
(10_state R26, R27). -/
theorem holdsOpen_iff_blocks {m : List Byte} {s : State} :
    HoldsOpen m s ↔ s.len.toNat = m.length ∧ ∃ bs, m = blockBytes bs ++ validBytes s ∧
      s.pending.foldl compress s.h = bs.foldl compress initialHash := by
  have bound := s.bufCnt.isLt
  have valid := validBytes_length s
  constructor
  · rintro ⟨length, -, tail, chain⟩
    obtain ⟨bs, t, short, rfl⟩ := exists_blockBytes_append m
    have count : (blockBytes bs ++ t).length / 64 = bs.length := by
      rw [List.length_append, blockBytes_length]; omega
    rw [count, List.drop_left' (blockBytes_length bs)] at tail
    rw [blocksOf_blockBytes_append, blocksOf_of_short short, List.append_nil] at chain
    exact ⟨length, bs, by rw [tail], chain⟩
  · rintro ⟨length, bs, rfl, chain⟩
    have total : (blockBytes bs ++ validBytes s).length = 64 * bs.length + s.bufCnt.val := by
      rw [List.length_append, blockBytes_length, valid]
    have count : (blockBytes bs ++ validBytes s).length / 64 = bs.length := by omega
    refine ⟨length, by omega, ?_, ?_⟩
    · rw [count, List.drop_left' (blockBytes_length bs)]
    · rw [blocksOf_blockBytes_append, blocksOf_of_short (by omega), List.append_nil, chain]

/-- An INIT that finds nothing pending opens the empty message (40_commands R102). -/
theorem openMessage_holdsOpen {s : State} (nothing : s.pending = []) : HoldsOpen [] (openMessage s) :=
  holdsOpen_iff_blocks.mpr ⟨rfl, [], rfl, by rw [openMessage_pending, nothing]; rfl⟩

/-- ABSORB's loop and count append up to four bytes to the open message (40_commands R103). -/
theorem appendBytes_holdsOpen {m bytes : List Byte} {s : State} (held : HoldsOpen m s) (few : bytes.length ≤ 4)
    (fits : m.length + bytes.length ≤ Config.maxMsgBytes) :
    HoldsOpen (m ++ bytes) (countBytes bytes.length (appendBytes bytes s)) := by
  obtain ⟨length, bs, rfl, chain⟩ := holdsOpen_iff_blocks.mp held
  rw [← length] at fits
  obtain ⟨stays, fills⟩ := appendBytes_validBytes bytes s few
  refine holdsOpen_iff_blocks.mpr ⟨?_, ?_⟩
  · rw [countBytes_len, appendBytes_len, len_add_toNat fits, length, List.length_append (bs := bytes)]
  · rw [countBytes_pending, countBytes_h, appendBytes_h]
    change ∃ cs, _ = blockBytes cs ++ validBytes (appendBytes bytes s) ∧ _
    by_cases room : s.bufCnt.val + bytes.length < 64
    · obtain ⟨pending, -, valid⟩ := stays room
      exact ⟨bs, by rw [valid, List.append_assoc], by rw [pending, chain]⟩
    · obtain ⟨block, pending, -, valid⟩ := fills (by omega)
      refine ⟨bs ++ [block], ?_, ?_⟩
      · rw [blockBytes_append, blockBytes_singleton, List.append_assoc, List.append_assoc, valid]
      · rw [pending, List.foldl_append, List.foldl_append, chain]

/-- FINAL leaves blocks that take H to the SHA-256 of the open message (40_commands R104, 41 R142). -/
theorem closeMessage_holdsClosed {m : List Byte} {s : State} (held : HoldsOpen m s) : HoldsClosed m (closeMessage s) := by
  obtain ⟨length, bs, whole, chain⟩ := holdsOpen_iff_blocks.mp held
  refine ⟨length, ?_, ?_⟩
  · obtain ⟨some, -⟩ := finalBlocks_length_bounds s
    exact List.append_ne_nil_of_right_ne_nil _ (List.ne_nil_of_length_pos some)
  · calc (s.pending ++ finalBlocks s).foldl compress s.h
      _ = (blocksOf (pad (validBytes s) m.length)).foldl compress (bs.foldl compress initialHash) := by
        rw [List.foldl_append, chain, finalBlocks_eq_blocksOf, length]
      _ = (blocksOf (blockBytes bs ++ pad (validBytes s) m.length)).foldl compress initialHash := by
        rw [blocksOf_blockBytes_append, List.foldl_append]
      _ = sha256 m := by rw [← pad_blockBytes_append, ← whole, sha256]

/-! ### The engine's turn -/

theorem engineStep_pending (s : State) : (engineStep s).pending = s.pending.tail := by
  rcases engineStep_cases s with ⟨nothing, he⟩ | ⟨b, rest, pending, -, he⟩ | ⟨b, pending, -, he⟩ <;> rw [he]
  · rw [nothing]; rfl
  · rw [pending]; rfl
  · rw [pending]; rfl

@[simp] theorem engineStep_window (s : State) : (engineStep s).window = s.window := by
  rcases engineStep_cases s with ⟨-, he⟩ | ⟨b, rest, -, -, he⟩ | ⟨b, -, -, he⟩ <;> rw [he] <;> rfl

@[simp] theorem engineStep_host (s : State) : (engineStep s).host = s.host := by
  rcases engineStep_cases s with ⟨-, he⟩ | ⟨b, rest, -, -, he⟩ | ⟨b, -, -, he⟩ <;> rw [he] <;> rfl

@[simp] theorem engineStep_schedule (s : State) : (engineStep s).schedule = s.schedule := by
  rcases engineStep_cases s with ⟨-, he⟩ | ⟨b, rest, -, -, he⟩ | ⟨b, -, -, he⟩ <;> rw [he] <;> rfl

/-- The engine neither opens nor closes a message (41 R140). -/
theorem engineStep_phase_absorbing (s : State) : (engineStep s).phase = .absorbing ↔ s.phase = .absorbing := by
  rcases engineStep_cases s with ⟨-, he⟩ | ⟨b, rest, -, -, he⟩ | ⟨b, -, closed, he⟩ <;> rw [he]
  · rfl
  · simp [deliverDigest, closed]

section Serves
variable {m : List Byte} {s : State}

theorem serves_iff_of_absorbing (phase : s.phase = .absorbing) : Serves m s ↔ HoldsOpen m s := by
  simp [Serves, phase]

theorem serves_iff_of_finalizing (phase : s.phase = .finalizing) : Serves m s ↔ HoldsClosed m s := by
  simp [Serves, phase]

theorem serves_iff_of_done (phase : s.phase = .done) : Serves m s ↔ HoldsDigest m s := by
  simp [Serves, phase]

theorem not_serves_of_idle (phase : s.phase = .idle) : ¬ Serves m s := by
  simp [Serves, phase]

/-- Compressing a pending block keeps the message, except for the last block of a closed one (41 R140). -/
theorem compressHead_serves {b : Block} {rest : List Block} (pending : s.pending = b :: rest)
    (more : rest ≠ [] ∨ s.phase ≠ .finalizing) (serves : Serves m s) : Serves m (compressHead b rest s) := by
  cases phase : s.phase with
  | idle => exact absurd serves (not_serves_of_idle phase)
  | absorbing =>
    obtain ⟨length, count, tail, chain⟩ := (serves_iff_of_absorbing phase).mp serves
    rw [pending] at chain
    exact (serves_iff_of_absorbing (s := compressHead b rest s) phase).mpr ⟨length, count, tail, chain⟩
  | finalizing =>
    obtain ⟨length, -, chain⟩ := (serves_iff_of_finalizing phase).mp serves
    rw [pending] at chain
    exact (serves_iff_of_finalizing (s := compressHead b rest s) phase).mpr
      ⟨length, more.resolve_right (not_not.mpr phase), chain⟩
  | done =>
    obtain ⟨-, nothing, -, -⟩ := (serves_iff_of_done phase).mp serves
    rw [pending] at nothing
    cases nothing

/-- The engine serves the message that the block served, and delivers its digest with the last block (41 R140, R153). -/
theorem engineStep_serves (serves : Serves m s) : Serves m (engineStep s) := by
  rcases engineStep_cases s with ⟨-, he⟩ | ⟨b, rest, pending, more, he⟩ | ⟨b, pending, closed, he⟩ <;> rw [he]
  · exact serves
  · exact compressHead_serves pending more serves
  · obtain ⟨length, -, chain⟩ := (serves_iff_of_finalizing closed).mp serves
    rw [pending] at chain
    exact (serves_iff_of_done rfl).mpr ⟨length, rfl, chain, congrArg seedWords chain⟩

end Serves

/-! ### The engine's turns until nothing is pending -/

/-- The block after as many turns of the engine as blocks are pending. -/
def drained (s : State) : State := engineStep^[s.pending.length] s

/-- What each turn of the engine keeps holds of the drained block. -/
theorem drained_keeps {P : State → Prop} (keeps : ∀ t, P t → P (engineStep t)) {s : State} (h : P s) : P (drained s) :=
  Function.Iterate.rec P h keeps _

theorem drained_pending (s : State) : (drained s).pending = [] := by
  have turns (n : Nat) : (engineStep^[n] s).pending = s.pending.drop n := by
    induction n with
    | zero => rfl
    | succ n ih => rw [Function.iterate_succ_apply', engineStep_pending, ih, List.tail_drop]
  rw [drained, turns, List.drop_length]

@[simp] theorem drained_window (s : State) : (drained s).window = s.window :=
  drained_keeps (P := fun t => t.window = s.window) (fun t h => (engineStep_window t).trans h) rfl

@[simp] theorem drained_err (s : State) : (drained s).err = s.err :=
  drained_keeps (P := fun t => t.err = s.err) (fun t h => (engineStep_err t).trans h) rfl

@[simp] theorem drained_errCode (s : State) : (drained s).errCode = s.errCode :=
  drained_keeps (P := fun t => t.errCode = s.errCode) (fun t h => (engineStep_errCode t).trans h) rfl

theorem drained_phase_absorbing (s : State) : (drained s).phase = .absorbing ↔ s.phase = .absorbing :=
  drained_keeps (P := fun t => t.phase = .absorbing ↔ s.phase = .absorbing)
    (fun t h => (engineStep_phase_absorbing t).trans h) Iff.rfl

/-- A drained block holds an open message still, or has delivered a closed one (41 R140, R153). -/
theorem drained_serves {m : List Byte} {s : State} (serves : Serves m s) :
    (s.phase = .absorbing → (drained s).phase = .absorbing ∧ HoldsOpen m (drained s)) ∧
      (s.phase ≠ .absorbing → (drained s).phase = .done ∧ HoldsDigest m (drained s)) := by
  have after : Serves m (drained s) := drained_keeps (P := Serves m) (fun _ => engineStep_serves) serves
  rw [ne_eq, ← drained_phase_absorbing s]
  cases phase : (drained s).phase with
  | idle => exact absurd after (not_serves_of_idle phase)
  | absorbing => exact ⟨fun _ => ⟨rfl, (serves_iff_of_absorbing phase).mp after⟩, fun other => absurd rfl other⟩
  | finalizing =>
    obtain ⟨-, waiting, -⟩ := (serves_iff_of_finalizing phase).mp after
    exact absurd (drained_pending s) waiting
  | done => exact ⟨nofun, fun _ => ⟨rfl, (serves_iff_of_done phase).mp after⟩⟩

end Sys2Proof.Machine
end

section
/-! Runs of a host program (30_encoding R79 to R81): how its next access or WAIT is performed, whatever turns the engine
takes in between. -/

namespace Sys2Proof.Machine

/-! ### The same block -/

/-- `t` is `s` but for the host's program, the schedule and the readings. -/
def SameBlock (s t : State) : Prop :=
  ∃ ops turns readings, t = { s with host := ops, schedule := turns, received := readings }

section SameBlock
variable {s t u : State}

theorem SameBlock.trans (first : SameBlock s t) (second : SameBlock t u) : SameBlock s u := by
  obtain ⟨_, _, _, rfl⟩ := first
  obtain ⟨ops, turns, readings, rfl⟩ := second
  exact ⟨ops, turns, readings, rfl⟩

/-- The engine reads and writes the block only (41 R140). -/
theorem SameBlock.after_engineStep (same : SameBlock s t) : SameBlock (engineStep s) (engineStep t) := by
  obtain ⟨ops, turns, readings, rfl⟩ := same
  unfold engineStep
  dsimp only
  split
  · exact ⟨ops, turns, readings, rfl⟩
  · split <;> exact ⟨ops, turns, readings, rfl⟩

theorem SameBlock.after_drained (same : SameBlock s t) : SameBlock (drained s) (drained t) := by
  have count : t.pending.length = s.pending.length := by obtain ⟨_, _, _, rfl⟩ := same; rfl
  unfold drained
  rw [count]
  generalize s.pending.length = n
  induction n with
  | zero => exact same
  | succ n ih => rw [Function.iterate_succ_apply', Function.iterate_succ_apply']; exact ih.after_engineStep

end SameBlock

/-! ### One turn -/

theorem step_of_engine_turn {s : State} (turn : nextAgent s = .engine) : step s = .next (engineStep (popTurn s)) := by
  rw [step, takeTurn, turn]

theorem step_of_host_turn {s : State} (turn : nextAgent s = .host) : step s = hostTurn (popTurn s) := by
  rw [step, takeTurn, turn]

/-- A turn that is not the one the model gives with none listed comes from the schedule (70_reset R238, log 2). -/
theorem schedule_of_listed_turn {s : State} (listed : nextAgent s ≠ if busy s then .engine else .host) :
    (popTurn s).schedule.length + 1 = s.schedule.length := by
  cases schedule : s.schedule with
  | nil => exact absurd (by rw [nextAgent, schedule]) listed
  | cons a later => rw [popTurn_schedule, schedule]; rfl

/-! ### An access -/

/-- The access that asks for a well-formed instruction runs it (30_encoding R79, R80). -/
theorem hostAccess_encode {s : State} {i : Instr} (wf : wellFormed i = true) : hostAccess (encode (base s) i) s = exec i s := by
  rw [hostAccess, decodeAfterEncode (base s) i wf]

/-- A host with nothing pending comes to its next instruction; until then the block does not change
(00_scope R13, 60_exceptions R217). -/
theorem reaches_exec {s : State} {i : Instr} {rest : List HostOp} (nothing : s.pending = [])
    (program : s.host = issue (base s) i :: rest) (wf : wellFormed i = true) :
    ∃ n turns, ∀ t, exec i { s with host := rest, schedule := turns } = .next t → reachesIn n s t := by
  cases turn : nextAgent s with
  | host =>
    refine ⟨1, s.schedule.tail, fun t runs => reachesIn_succ ?_ rfl⟩
    rw [step_of_host_turn turn, hostTurn, popTurn_host, program]
    exact (hostAccess_encode (s := { popTurn s with host := rest }) wf).trans runs
  | engine =>
    have shorter := schedule_of_listed_turn (s := s) (by simp [turn, busy_eq_false.mpr nothing])
    have idle : step s = .next (popTurn s) := by
      rw [step_of_engine_turn turn, engineStep_of_pending_nil (s := popTurn s) nothing]
    obtain ⟨n, turns, later⟩ := reaches_exec (s := popTurn s) nothing program wf
    exact ⟨n + 1, turns, fun t runs => reachesIn_succ idle (later t runs)⟩
termination_by s.schedule.length
decreasing_by omega

/-! ### WAIT -/

/-- Bit 0 of STATUS, which WAIT polls, is BUSY (10_state R34). -/
theorem statusWord_and_one (s : State) : statusWord s &&& 0x00000001#32 = 0x00000000#32 ↔ s.pending = [] := by
  rw [← BitVec.toNat_inj, BitVec.toNat_and]
  change (statusWord s).toNat &&& 1 = 0 ↔ _
  rw [Nat.and_one_is_mod, statusWord_toNat, busy_toNat]
  split
  next waiting => exact iff_of_false (by omega) waiting
  next nothing => exact iff_of_true (by omega) (not_not.mp nothing)

/-- One read of WAIT's poll: STATUS is received, and the host goes on when BUSY is 0 (30_encoding R79, R81). -/
theorem hostPoll_wait (rest : List HostOp) (s : State) :
    hostPoll (base s + regOffset (.readOnly .status)) 0x00000001#32 0x00000000#32 rest s =
      .next (if s.pending = [] then { receive (.readOnly .status) (statusWord s) s with host := rest }
        else receive (.readOnly .status) (statusWord s) s) := by
  have read : hostAccess (.read (base s + regOffset (.readOnly .status)) 4) s =
      .next (receive (.readOnly .status) (statusWord s) s) :=
    hostAccess_read_of_locate (locate_regOffset ..)
  have satisfied : pollSatisfied 0x00000001#32 0x00000000#32 (receive (.readOnly .status) (statusWord s) s) =
      decide (s.pending = []) :=
    decide_eq_decide.mpr (statusWord_and_one s)
  rw [hostPoll, read]
  simp [satisfied]

theorem drained_of_pending_nil {s : State} (nothing : s.pending = []) : drained s = s := by
  rw [drained, nothing]; rfl

/-- The engine's turns until nothing is pending, one after the other. -/
theorem drained_engineStep (s : State) : drained (engineStep s) = drained s := by
  cases pending : s.pending with
  | nil => rw [engineStep_of_pending_nil pending]
  | cons b rest => rw [drained, drained, engineStep_pending, pending]; rfl

/-- The host's turn at a WAIT (00_scope R13, 30_encoding R81). -/
theorem step_of_wait {s : State} {rest : List HostOp} (turn : nextAgent s = .host)
    (program : s.host = waitOps (base s) ++ rest) :
    step s = .next (if s.pending = [] then { receive (.readOnly .status) (statusWord s) (popTurn s) with host := rest }
      else receive (.readOnly .status) (statusWord s) (popTurn s)) := by
  rw [step_of_host_turn turn, hostTurn, popTurn_host, program]
  exact hostPoll_wait rest (popTurn s)

/-- A turn of the engine shortens the schedule or the queue (41 R140, log 2). -/
theorem engine_turn_shortens {s : State} (turn : nextAgent s = .engine) :
    (engineStep (popTurn s)).schedule.length + (engineStep (popTurn s)).pending.length <
      s.schedule.length + s.pending.length := by
  rw [engineStep_schedule, engineStep_pending, popTurn_pending]
  cases pending : s.pending with
  | nil =>
    have := schedule_of_listed_turn (s := s) (by simp [turn, busy_eq_false.mpr pending])
    simp only [List.tail_nil, List.length_nil]; omega
  | cons b rest => simp; omega

/-- A WAIT ends, within the turns listed, the pending blocks and one more; the block is then the one that the engine has
drained (30_encoding R81, 70_reset R238; log 2). -/
theorem reaches_after_wait {s : State} {rest : List HostOp} (program : s.host = waitOps (base s) ++ rest) :
    ∃ n t, n ≤ s.schedule.length + s.pending.length + 1 ∧ reachesIn n s t ∧ t.host = rest ∧ SameBlock (drained s) t := by
  have turned : SameBlock s (popTurn s) := ⟨_, _, _, rfl⟩
  cases turn : nextAgent s with
  | engine =>
    have shorter := engine_turn_shortens turn
    obtain ⟨n, t, bound, run, host, same⟩ := reaches_after_wait (s := engineStep (popTurn s)) (rest := rest)
      (by simpa [base] using program)
    refine ⟨n + 1, t, by omega, reachesIn_succ (step_of_engine_turn turn) run, host, ?_⟩
    rw [← drained_engineStep]
    exact turned.after_engineStep.after_drained.trans same
  | host =>
    have first := step_of_wait turn program
    by_cases nothing : s.pending = []
    · rw [if_pos nothing] at first
      refine ⟨1, _, by omega, reachesIn_succ first rfl, rfl, ?_⟩
      rw [drained_of_pending_nil nothing]
      exact ⟨_, _, _, rfl⟩
    · rw [if_neg nothing] at first
      have shorter := schedule_of_listed_turn (s := s) (by simp [turn, busy_eq_true.mpr nothing])
      have read : SameBlock s (receive (.readOnly .status) (statusWord s) (popTurn s)) := ⟨_, _, _, rfl⟩
      obtain ⟨n, t, bound, run, host, same⟩ :=
        reaches_after_wait (s := receive (.readOnly .status) (statusWord s) (popTurn s)) program
      rw [receive_schedule, receive_pending, popTurn_pending] at bound
      exact ⟨n + 1, t, by omega, reachesIn_succ first run, host, read.after_drained.trans same⟩
termination_by s.schedule.length + s.pending.length
decreasing_by
  · simp only [receive_schedule, receive_pending, popTurn_pending]; omega
  · exact shorter

end Sys2Proof.Machine
end

section
/-! The stream of a message and KDF (30_encoding R81): what each part of the host's program leaves the block with. -/

namespace Sys2Proof.Machine

/-! ### Accepted commands -/

theorem commandGate_of_idle (body : State → State) {s : State} (nothing : s.pending = []) : commandGate body s = body s := by
  simp [commandGate, busy_eq_false.mpr nothing]

theorem messageGate_of_open (body : State → State) {s : State} (err : s.err = false) (phase : s.phase = .absorbing) :
    messageGate body s = body s := by
  simp [messageGate, err, phase]

/-- INIT is accepted when BUSY = 0 (40_commands R102). -/
theorem exec_init_accepted {s : State} (nothing : s.pending = []) : exec .init s = .next (openMessage s) :=
  congrArg _ (commandGate_of_idle openMessage nothing)

/-- ABSORB is accepted in an open message that its bytes do not overflow (40_commands R103). -/
theorem exec_absorb_accepted {s : State} {cnt : BitVec 3} (nothing : s.pending = []) (err : s.err = false)
    (phase : s.phase = .absorbing) (legal : countLegal cnt = true)
    (fits : s.len.toNat + cnt.toNat ≤ Config.maxMsgBytes) :
    exec (.absorb cnt) s = .next (countBytes cnt.toNat (appendBytes (laneBytes s.dataIn cnt.toNat) s)) := by
  rw [exec_absorb_of_legal legal, commandGate_of_idle _ nothing, messageGate_of_open _ err phase, absorbBytes,
    if_neg (by omega)]

/-- FINAL is accepted in an open message (40_commands R104). -/
theorem exec_final_accepted {s : State} (nothing : s.pending = []) (err : s.err = false) (phase : s.phase = .absorbing) :
    exec .final s = .next (closeMessage s) :=
  congrArg _ ((commandGate_of_idle _ nothing).trans (messageGate_of_open closeMessage err phase))

/-! ### Between the parts of the program -/

/-- At a point of the host's program with nothing pending and no error: the window is at `b` and `rest` is still to do. -/
structure AtPoint (b : Nat) (rest : List HostOp) (s : State) : Prop where
  window : base s = b
  program : s.host = rest
  nothing : s.pending = []
  err : s.err = false
  errCode : s.errCode = 0

/-- Such a point where a message is open, `m` so far. -/
structure Streaming (b : Nat) (m : List Byte) (rest : List HostOp) (s : State) : Prop extends AtPoint b rest s where
  phase : s.phase = .absorbing
  held : HoldsOpen m s

/-- Such a point where the digest of `m` is delivered. -/
structure Delivered (b : Nat) (m : List Byte) (rest : List HostOp) (s : State) : Prop extends AtPoint b rest s where
  phase : s.phase = .done
  digest : HoldsDigest m s

section Parts
variable {b k : Nat} {m : List Byte} {v : Word} {i : Instr} {rest : List HostOp} {s t : State}

theorem SameBlock.phase_eq (same : SameBlock s t) : t.phase = s.phase := by
  obtain ⟨_, _, _, rfl⟩ := same; rfl

theorem SameBlock.dataIn_eq (same : SameBlock s t) : t.dataIn = s.dataIn := by
  obtain ⟨_, _, _, rfl⟩ := same; rfl

theorem HoldsOpen.of_sameBlock (held : HoldsOpen m s) (same : SameBlock s t) : HoldsOpen m t := by
  obtain ⟨_, _, _, rfl⟩ := same
  obtain ⟨length, count, tail, chain⟩ := held
  exact ⟨length, count, tail, chain⟩

theorem HoldsDigest.of_sameBlock (held : HoldsDigest m s) (same : SameBlock s t) : HoldsDigest m t := by
  obtain ⟨_, _, _, rfl⟩ := same
  obtain ⟨length, pending, digest, seed⟩ := held
  exact ⟨length, pending, digest, seed⟩

/-- The host comes to its next instruction with the block as it was (30_encoding R79). -/
theorem AtPoint.reaches_exec (point : AtPoint b (issue b i :: rest) s) (wf : wellFormed i = true) :
    ∃ n u, SameBlock s u ∧ AtPoint b rest u ∧ u.received = s.received ∧
      ∀ t, exec i u = .next t → reachesIn n s t := by
  obtain ⟨rfl, program, nothing, err, errCode⟩ := point
  obtain ⟨n, turns, run⟩ := Machine.reaches_exec nothing program wf
  exact ⟨n, { s with host := rest, schedule := turns }, ⟨_, _, _, rfl⟩, ⟨rfl, rfl, nothing, err, errCode⟩, rfl, run⟩

/-- A WAIT brings the host to such a point, when no error is recorded (30_encoding R81; log 2). -/
theorem reaches_point_after_wait (program : s.host = waitOps (base s) ++ rest) (err : s.err = false)
    (errCode : s.errCode = 0) : ∃ n t, reachesIn n s t ∧ AtPoint (base s) rest t ∧ SameBlock (drained s) t := by
  obtain ⟨n, t, -, run, host, same⟩ := reaches_after_wait program
  refine ⟨n, t, run, ?_, same⟩
  obtain ⟨_, _, _, rfl⟩ := same
  exact ⟨by simp [base], host, drained_pending s, by simpa using err, by simpa using errCode⟩

/-- A WAIT in ABSORBING keeps the open message (41 R140). -/
theorem reaches_streaming_after_wait (program : s.host = waitOps (base s) ++ rest) (err : s.err = false)
    (errCode : s.errCode = 0) (phase : s.phase = .absorbing) (held : HoldsOpen m s) :
    ∃ n t, reachesIn n s t ∧ Streaming (base s) m rest t := by
  obtain ⟨n, t, run, point, same⟩ := reaches_point_after_wait program err errCode
  obtain ⟨still, -⟩ := drained_serves ((serves_iff_of_absorbing phase).mpr held)
  obtain ⟨absorbing, held⟩ := still phase
  exact ⟨n, t, run, point, same.phase_eq.trans absorbing, held.of_sameBlock same⟩

/-- A WAIT in FINALIZING delivers the digest of the closed message (41 R140, R153). -/
theorem reaches_delivered_after_wait (program : s.host = waitOps (base s) ++ rest) (err : s.err = false)
    (errCode : s.errCode = 0) (phase : s.phase = .finalizing) (closed : HoldsClosed m s) :
    ∃ n t, reachesIn n s t ∧ Delivered (base s) m rest t := by
  obtain ⟨n, t, run, point, same⟩ := reaches_point_after_wait program err errCode
  obtain ⟨-, delivers⟩ := drained_serves ((serves_iff_of_finalizing phase).mpr closed)
  obtain ⟨done, digest⟩ := delivers (by rw [phase]; nofun)
  exact ⟨n, t, run, point, same.phase_eq.trans done, digest.of_sameBlock same⟩

/-- INIT with BUSY = 0, in any phase and with any error recorded, opens the empty message (40_commands R102). -/
theorem reaches_streaming_of_init (nothing : s.pending = []) (program : s.host = issue (base s) .init :: rest) :
    ∃ n t, reachesIn n s t ∧ Streaming (base s) [] rest t := by
  obtain ⟨n, turns, run⟩ := reaches_exec nothing program rfl
  exact ⟨n, _, run _ (exec_init_accepted nothing), ⟨rfl, rfl, nothing, rfl, rfl⟩, rfl, openMessage_holdsOpen nothing⟩

/-- The host comes to its next instruction with the open message and DATA_IN as they were. -/
theorem Streaming.reaches_exec (point : Streaming b m (issue b i :: rest) s) (wf : wellFormed i = true) :
    ∃ n u, Streaming b m rest u ∧ u.dataIn = s.dataIn ∧ ∀ t, exec i u = .next t → reachesIn n s t := by
  obtain ⟨n, u, same, there, -, run⟩ := point.toAtPoint.reaches_exec wf
  exact ⟨n, u, ⟨there, same.phase_eq.trans point.phase, point.held.of_sameBlock same⟩, same.dataIn_eq, run⟩

/-- LOAD leaves its word in DATA_IN (40_commands R105). -/
theorem Streaming.reaches_loaded (point : Streaming b m (issue b (.writeDataIn v) :: rest) s) :
    ∃ n t, reachesIn n s t ∧ Streaming b m rest t ∧ t.dataIn = v := by
  obtain ⟨n, u, ⟨⟨window, program, nothing, err, errCode⟩, phase, held⟩, -, run⟩ := point.reaches_exec rfl
  obtain ⟨length, count, tail, chain⟩ := held
  exact ⟨n, _, run _ rfl, ⟨⟨window, program, nothing, err, errCode⟩, phase, length, count, tail, chain⟩, rfl⟩

/-- ABSORB and WAIT append the first lanes of DATA_IN to the open message (40_commands R103). -/
theorem Streaming.reaches_absorbed {cnt : BitVec 3}
    (point : Streaming b m (issue b (.absorb cnt) :: (waitOps b ++ rest)) s) (legal : countLegal cnt = true)
    (fits : m.length + cnt.toNat ≤ Config.maxMsgBytes) :
    ∃ n t, reachesIn n s t ∧ Streaming b (m ++ laneBytes s.dataIn cnt.toNat) rest t := by
  obtain ⟨n, u, ⟨⟨rfl, program, nothing, err, errCode⟩, phase, held⟩, sameData, run⟩ := point.reaches_exec legal
  obtain ⟨-, few⟩ := (countLegal_iff cnt).mp legal
  have accepted := run _ (exec_absorb_accepted nothing err phase legal (by rwa [held.length]))
  have appended := appendBytes_holdsOpen (bytes := laneBytes u.dataIn cnt.toNat) held
    (by rwa [laneBytes_length]) (by rwa [laneBytes_length])
  rw [laneBytes_length] at appended
  obtain ⟨k, t, waits, there⟩ := reaches_streaming_after_wait (rest := rest) (by simpa [base] using program)
    (by simpa using err) (by simpa using errCode) (by simpa using phase) appended
  rw [sameData] at there
  exact ⟨n + k, t, reachesIn_trans accepted waits, by simpa [base] using there⟩

/-- PUT appends the first `k` lanes of its word to the open message (30_encoding R81). -/
theorem Streaming.reaches_put (point : Streaming b m (putOps b k v ++ rest) s) (some : 1 ≤ k) (few : k ≤ 4)
    (fits : m.length + k ≤ Config.maxMsgBytes) :
    ∃ n t, reachesIn n s t ∧ Streaming b (m ++ laneBytes v k) rest t := by
  have count : (BitVec.ofNat 3 k).toNat = k := by rw [BitVec.toNat_ofNat]; omega
  obtain ⟨n, u, loads, there, rfl⟩ := Streaming.reaches_loaded point
  obtain ⟨j, t, absorbs, there⟩ := there.reaches_absorbed ((countLegal_iff _).mpr (by omega)) (by omega)
  rw [count] at there
  exact ⟨n + j, t, reachesIn_trans loads absorbs, there⟩

/-- PUTs of legal counts append their bytes to the open message, one after the other (30_encoding R81). -/
theorem Streaming.reaches_puts {groups : List (Nat × Word)}
    (point : Streaming b m ((groups.map fun g => putOps b g.1 g.2).flatten ++ rest) s)
    (legal : ∀ g ∈ groups, 1 ≤ g.1 ∧ g.1 ≤ 4)
    (fits : (m ++ (groups.map fun g => laneBytes g.2 g.1).flatten).length ≤ Config.maxMsgBytes) :
    ∃ n t, reachesIn n s t ∧ Streaming b (m ++ (groups.map fun g => laneBytes g.2 g.1).flatten) rest t := by
  induction groups generalizing m s with
  | nil => exact ⟨0, s, rfl, by simpa using point⟩
  | cons g groups ih =>
    simp only [List.map_cons, List.flatten_cons, List.append_assoc] at point
    simp only [List.map_cons, List.flatten_cons, ← List.append_assoc] at fits ⊢
    obtain ⟨⟨some, few⟩, others⟩ := List.forall_mem_cons.mp legal
    have first : m.length + g.1 ≤ Config.maxMsgBytes := by
      rw [List.length_append, List.length_append, laneBytes_length] at fits; omega
    obtain ⟨n, u, puts, there⟩ := point.reaches_put some few first
    obtain ⟨j, t, later, there⟩ := ih there others fits
    exact ⟨n + j, t, reachesIn_trans puts later, there⟩

/-- FINAL and WAIT deliver the digest of the open message (40_commands R104, 41 R153). -/
theorem Streaming.reaches_delivered (point : Streaming b m (issue b .final :: (waitOps b ++ rest)) s) :
    ∃ n t, reachesIn n s t ∧ Delivered b m rest t := by
  obtain ⟨n, u, ⟨⟨rfl, program, nothing, err, errCode⟩, phase, held⟩, -, run⟩ := point.reaches_exec rfl
  have accepted := run _ (exec_final_accepted nothing err phase)
  obtain ⟨k, t, waits, there⟩ := reaches_delivered_after_wait (s := closeMessage u) program err errCode rfl
    (closeMessage_holdsClosed held)
  exact ⟨n + k, t, reachesIn_trans accepted waits, there⟩

/-- INIT, PUTs of legal counts, FINAL and WAIT deliver the digest of the bytes put (41 R153). -/
theorem reaches_delivered_of_stream {groups : List (Nat × Word)} (nothing : s.pending = [])
    (legal : ∀ g ∈ groups, 1 ≤ g.1 ∧ g.1 ≤ 4) (bytes : m = (groups.map fun g => laneBytes g.2 g.1).flatten)
    (fits : m.length ≤ Config.maxMsgBytes)
    (program : s.host = [issue (base s) .init] ++ (groups.map fun g => putOps (base s) g.1 g.2).flatten ++
      [issue (base s) .final] ++ waitOps (base s) ++ rest) :
    ∃ n t, reachesIn n s t ∧ Delivered (base s) m rest t := by
  subst bytes
  obtain ⟨n, u, opens, there⟩ := reaches_streaming_of_init nothing
    (rest := (groups.map fun g => putOps (base s) g.1 g.2).flatten ++ issue (base s) .final :: (waitOps (base s) ++ rest))
    (by simp [program])
  obtain ⟨j, v, puts, there⟩ := there.reaches_puts legal fits
  obtain ⟨k, t, closes, there⟩ := there.reaches_delivered
  exact ⟨_, t, reachesIn_trans opens (reachesIn_trans puts closes), there⟩

end Parts

end Sys2Proof.Machine
end

section
/-! KDF (30_encoding R81): its PUTs are a stream of the message, and its reads return STATUS and the seed material. -/

namespace Sys2Proof.Machine

/-! ### The PUTs of KDF -/

/-- The counts and words of KDF's PUTs: four bytes of the message at a time, and the rest (30_encoding R81). -/
def kdfGroups (m : List Byte) : List (Nat × Word) :=
  (List.range ((m.length + 3) / 4)).map fun q => (min 4 (m.length - 4 * q), le32 m (4 * q))

theorem kdfGroups_counts (m : List Byte) : ∀ g ∈ kdfGroups m, 1 ≤ g.1 ∧ g.1 ≤ 4 := by
  simp only [kdfGroups, List.forall_mem_map, List.mem_range]
  intro q inside
  omega

/-- KDF is INIT, a stream of its groups, FINAL and WAIT, and then reads (30_encoding R81). -/
theorem kdfOps_eq_stream (b : Nat) (m : List Byte) :
    kdfOps b m = [issue b .init] ++ ((kdfGroups m).map fun g => putOps b g.1 g.2).flatten ++ [issue b .final] ++
      waitOps b ++ issue b .readStatus :: readSeedsOps b := by
  have puts : (List.range ((m.length + 3) / 4)).flatMap (groupOps b m) =
      ((kdfGroups m).map fun g => putOps b g.1 g.2).flatten := by
    rw [kdfGroups, List.map_map, List.flatMap_def]; rfl
  simp [kdfOps, puts]

/-- The lanes that a PUT of KDF absorbs are the message's bytes there (30_encoding R81, 20_memory R54). -/
theorem laneBytes_le32 {m : List Byte} {k n : Nat} (few : n ≤ 4) (inside : k + n ≤ m.length) :
    laneBytes (le32 m k) n = (m.drop k).take n := by
  rw [← map_byteAt_range inside]
  exact List.map_congr_left fun j hj => lane_le32 m k (by rw [List.mem_range] at hj; omega)

/-- The bytes of KDF's groups are the message (30_encoding R81). -/
theorem kdfGroups_bytes (m : List Byte) : ((kdfGroups m).map fun g => laneBytes g.2 g.1).flatten = m := by
  have group (q : Nat) (inside : 4 * q < m.length) :
      laneBytes (le32 m (4 * q)) (min 4 (m.length - 4 * q)) = (m.drop (4 * q)).take 4 := by
    rw [laneBytes_le32 (by omega) (by omega), ← List.length_drop]
    exact List.take_eq_take_min.symm
  have first (n : Nat) : ((List.range n).map fun q => (m.drop (4 * q)).take 4).flatten = m.take (4 * n) := by
    induction n with
    | zero => rfl
    | succ n ih =>
      rw [List.range_succ, List.map_append, List.flatten_append, ih, Nat.mul_succ, List.take_add]
      simp
  rw [kdfGroups, List.map_map]
  calc ((List.range ((m.length + 3) / 4)).map _).flatten
    _ = ((List.range ((m.length + 3) / 4)).map fun q => (m.drop (4 * q)).take 4).flatten :=
      congrArg _ (List.map_congr_left fun q hq => group q (by rw [List.mem_range] at hq; omega))
    _ = m := by rw [first, List.take_of_length_le (by omega)]

/-! ### The seed material -/

/-- A little-endian word of the digest is the byte-swapped word of the chaining value (00_scope R2, 41 R141). -/
theorem le32_digestBytes (h : Words8) (i : Fin 8) : le32 (digestBytes h) (4 * i.val) = bswap32 h[i] := by
  fin_cases i <;> rfl

/-- The signed seed words are the source's seed material (00_scope R2, 41 R141). -/
theorem seedWords_map_toInt32 (m : List Byte) : (seedWords (sha256 m)).toList.map toInt32 = seedMaterial m := by
  refine List.ext_getElem (by simp [seedMaterial]) fun i inside _ => ?_
  have place : i < 8 := by simpa using inside
  simpa [seedMaterial, seedWords] using congrArg toInt32 (le32_digestBytes (sha256 m) ⟨i, place⟩).symm

/-! ### The reads of KDF -/

section Reads
variable {b : Nat} {m : List Byte} {rest : List HostOp} {s : State}

/-- STATUS in DONE with nothing pending and no error (40_commands R107). -/
theorem Delivered.statusWord_eq (there : Delivered b m rest s) : statusWord s = 0x00000032#32 := by
  obtain ⟨⟨-, -, nothing, err, errCode⟩, phase, -⟩ := there
  apply BitVec.eq_of_toNat_eq
  rw [statusWord_toNat, doneFlag, busy_eq_false.mpr nothing, phase, err, errCode]
  rfl

/-- A read where the digest is delivered returns the word that the block holds (40_commands R107, R109). -/
theorem Delivered.reaches_read {r : Reg} (there : Delivered b m (issue b (readInstr r) :: rest) s) :
    ∃ n t, reachesIn n s t ∧ Delivered b m rest t ∧ t.received = ⟨r, storedWord t r⟩ :: s.received := by
  obtain ⟨wf, -⟩ := encode_readInstr b r
  obtain ⟨n, u, same, ⟨window, program, nothing, err, errCode⟩, sameReadings, run⟩ := there.toAtPoint.reaches_exec wf
  have done : u.phase = .done := same.phase_eq.trans there.phase
  obtain ⟨length, pending, digest, seed⟩ := there.digest.of_sameBlock same
  refine ⟨n, receive r (storedWord u r) u, run _ (exec_readInstr_of_readsStored (.inl done)),
    ⟨⟨window, program, nothing, err, errCode⟩, done, length, pending, digest, seed⟩, ?_⟩
  rw [storedWord_receive, ← sameReadings]
  rfl

/-- Reads of SEED registers return the message's seed words, the newest first (40_commands R109). -/
theorem Delivered.reaches_seeds_read {regs : List (Fin 8)}
    (there : Delivered b m (regs.map fun i => issue b (.readSeed i)) s) :
    ∃ n t, reachesIn n s t ∧ Delivered b m [] t ∧
      t.received = (regs.map fun i => ⟨.readOnly (.seed i), (seedWords (sha256 m))[i]⟩).reverse ++ s.received := by
  induction regs generalizing s with
  | nil => exact ⟨0, s, rfl, there, rfl⟩
  | cons i regs ih =>
    obtain ⟨n, u, first, there, reading⟩ := Delivered.reaches_read (r := .readOnly (.seed i)) there
    obtain ⟨k, t, later, there', readings⟩ := ih there
    have word : storedWord u (.readOnly (.seed i)) = (seedWords (sha256 m))[i] := by
      rw [storedWord, there.digest.seed]
    exact ⟨n + k, t, reachesIn_trans first later, there', by simp [readings, reading, word]⟩

end Reads

/-- Settles O49: KDF streams the message to its digest, and its reads return what the block then holds. -/
theorem kdfReadsSeedMaterial : Obligations.KdfReadsSeedMaterial := by
  intro s m idle fits program
  rw [kdfOps_eq_stream] at program
  obtain ⟨n, u, streams, delivered⟩ := reaches_delivered_of_stream (busy_eq_false.mp idle) (kdfGroups_counts m)
    (kdfGroups_bytes m).symm fits program
  obtain ⟨j, v, status, delivered, reading⟩ := Delivered.reaches_read (r := .readOnly .status) delivered
  obtain ⟨k, t, seeds, ended, readings⟩ := Delivered.reaches_seeds_read delivered
  refine ⟨_, t, (seedWords (sha256 m)).toList, u.received,
    reachesIn_trans streams (reachesIn_trans status seeds), ended.program, ?_, seedWords_map_toInt32 m⟩
  have word : storedWord v (.readOnly .status) = 0x00000032#32 := delivered.statusWord_eq
  rw [readings, reading, word]
  simp

end Sys2Proof.Machine
end

section
/-! The host's accesses to CMD and the turn that performs an access (40_commands R100): what the handler does with each
decoding, and when the gates turn a command away. -/

namespace Sys2Proof.Machine

/-! ### What an access does with its decoding -/

section
variable {a : BusAccess} {s : State}

theorem hostAccess_of_instr {i : Instr} (decoded : decodeAccess (base s) a = .instr i) : hostAccess a s = exec i s := by
  rw [hostAccess, decoded]

theorem hostAccess_of_illegal {e : ErrorCode} (decoded : decodeAccess (base s) a = .illegal e) :
    hostAccess a s = .next (rejectCommand e s) := by
  rw [hostAccess, decoded]

theorem hostAccess_of_refused {r : NoStep} (decoded : decodeAccess (base s) a = .refused r) :
    hostAccess a s = .refused (refusalOf r) := by
  rw [hostAccess, decoded]

/-- The host's turn performs its next access, once the turn and the operation have left their lists (00_scope R13). -/
theorem step_of_access {rest : List HostOp} (turn : nextAgent s = .host) (program : s.host = .access a :: rest) :
    step s = hostAccess a { s with schedule := s.schedule.tail, host := rest } := by
  rw [step_of_host_turn turn, hostTurn, popTurn_host, program]
  rfl

end

/-- Settles O8: the step is the access, and the access does what its decoding says; neither list is in BASE. -/
theorem stepRunsDecodedAccess : Obligations.StepRunsDecodedAccess := by
  intro s a rest turn program
  rw [step_of_access turn program]
  exact ⟨fun _ decoded => hostAccess_of_instr decoded, fun _ decoded => hostAccess_of_illegal decoded,
    fun _ decoded => hostAccess_of_refused decoded⟩

/-! ### When the gates turn a command away -/

section
variable {s : State}

theorem commandGate_of_busy (body : State → State) (waiting : busy s = true) :
    commandGate body s = raiseError .busyViolation s :=
  if_pos waiting

theorem messageGate_of_err (body : State → State) (err : s.err = true) : messageGate body s = s :=
  if_pos err

/-- Recording an error where none is recorded (60_exceptions R202). -/
theorem raiseError_of_no_err (e : ErrorCode) (ok : s.err = false) :
    raiseError e s = { s with err := true, errCode := errorNumber e } := by
  simp [raiseError, ok]

theorem messageGate_of_no_message (body : State → State) (ok : s.err = false) (other : s.phase ≠ .absorbing) :
    messageGate body s = raiseError .sequence s := by
  simp [messageGate, ok, other]

/-- With BUSY = 0 a word that does not decode records its error (40_commands R100). -/
theorem rejectCommand_of_idle (e : ErrorCode) (idle : busy s = false) : rejectCommand e s = raiseError e s :=
  commandGate_of_idle _ (busy_eq_false.mp idle)

/-- While BUSY = 1 each command that a word can decode to is a BUSY_VIOLATION (40_commands R100). -/
theorem exec_command_of_busy {v : Word} {i : Instr} (decoded : decodeCommand v = .instr i) (waiting : busy s = true) :
    exec i s = .next (raiseError .busyViolation s) := by
  rcases decodeCommand_instr_cases decoded with rfl | rfl | ⟨rfl, legal⟩ | rfl
  · exact congrArg _ (commandGate_of_busy _ waiting)
  · exact congrArg _ (commandGate_of_busy _ waiting)
  · rw [exec_absorb_of_legal legal, commandGate_of_busy _ waiting]
  · exact congrArg _ (commandGate_of_busy _ waiting)

/-- A write to CMD asks for the command that its word decodes to (30_encoding R70). -/
theorem decodeAccess_write_cmd (b : Nat) (v : Word) : decodeAccess b (.write b 4 v) = decodeCommand v :=
  decodeAccess_write_regOffset b .cmd v

/-- While BUSY = 1 every write to CMD is a BUSY_VIOLATION, whatever its word (40_commands R100). -/
theorem hostAccess_write_cmd_of_busy (v : Word) (waiting : busy s = true) :
    hostAccess (.write (base s) 4 v) s = .next (raiseError .busyViolation s) := by
  have decodes := decodeAccess_write_cmd (base s) v
  cases word : decodeCommand v with
  | instr i => rw [hostAccess_of_instr (decodes.trans word), exec_command_of_busy word waiting]
  | illegal e => rw [hostAccess_of_illegal (decodes.trans word), rejectCommand, commandGate_of_busy _ waiting]
  | refused r => exact absurd word (decodeCommand_ne_refused v r)

end

/-- Settles O10: BUSY comes first, and then the handler does what the word decodes to. -/
theorem cmdWriteRunsHandler : Obligations.CmdWriteRunsHandler := by
  intro s v
  have decodes := decodeAccess_write_cmd (base s) v
  refine ⟨hostAccess_write_cmd_of_busy v, fun e idle word => ?_, fun i _ word => hostAccess_of_instr (decodes.trans word)⟩
  rw [hostAccess_of_illegal (decodes.trans word), rejectCommand_of_idle e idle, raiseError]

end Sys2Proof.Machine
end

section
/-! The four commands (40_commands R101 to R104): what each accepted command leaves, which words are theirs, and what a
rejected FINAL leaves. -/

namespace Sys2Proof

/-- NOP, INIT and FINAL have no operand: a word with their opcode and any other bit set is RESERVED_BITS
(30_encoding R73, R75). -/
theorem decodeCommand_reservedBits {v w : Word} (command : w.toNat < 4) (noOperand : w.toNat ≠ 2)
    (opcode : v.toNat % 256 = w.toNat) (other : v ≠ w) : decodeCommand v = .illegal .reservedBits := by
  have more : v.toNat ≠ w.toNat := fun same => other (BitVec.eq_of_toNat_eq same)
  rw [decodeInOrder v, if_neg (by omega)]
  by_cases reserved : v.toNat / 2048 ≠ 0
  · rw [if_pos reserved]
  · rw [if_neg reserved, if_pos (by omega)]

end Sys2Proof

namespace Sys2Proof.Machine

/-! ### NOP and INIT -/

/-- Settles O11: behind the command gate NOP does nothing. -/
theorem nopHasNoEffect : Obligations.NopHasNoEffect := by
  refine fun s => ⟨rfl, fun idle => ?_, fun waiting => ?_, fun v opcode other => ?_⟩
  · exact congrArg _ (commandGate_of_idle _ (busy_eq_false.mp idle))
  · exact exec_command_of_busy (v := 0x00000000#32) rfl waiting
  · exact decodeCommand_reservedBits (w := 0x00000000#32) (by decide) (by decide) opcode other

/-- Settles O12: an accepted INIT opens a message, and opening it again changes nothing more. -/
theorem initOpensMessage : Obligations.InitOpensMessage := by
  refine fun s => ⟨rfl, fun idle => ?_, fun waiting => ?_, fun v opcode other => ?_, fun t first => ?_⟩
  · exact exec_init_accepted (busy_eq_false.mp idle)
  · exact exec_command_of_busy (v := 0x00000001#32) rfl waiting
  · exact decodeCommand_reservedBits (w := 0x00000001#32) (by decide) (by decide) opcode other
  · cases waiting : busy s with
    | true => exact .inr rfl
    | false =>
      have nothing : s.pending = [] := busy_eq_false.mp waiting
      rw [exec_init_accepted nothing] at first
      cases first
      exact .inl (exec_init_accepted (s := openMessage s) nothing)

/-- Settles O43: the opened message is empty. -/
theorem initHoldsEmptyMessage : Obligations.InitHoldsEmptyMessage := by
  intro s idle
  have nothing : s.pending = [] := busy_eq_false.mp idle
  exact ⟨openMessage s, exec_init_accepted nothing, rfl, openMessage_holdsOpen nothing⟩

/-! ### ABSORB -/

/-- ABSORB's loop writes BUF, BUFCNT and PENDING only (40_commands R103). -/
theorem appendBytes_frame (bs : List Byte) (s : State) : ∃ buf count queue,
    appendBytes bs s = { s with buf := buf, bufCnt := count, pending := queue } := by
  induction bs generalizing s with
  | nil => exact ⟨s.buf, s.bufCnt, s.pending, rfl⟩
  | cons b bs ih =>
    obtain ⟨buf, count, queue, later⟩ := ih (appendByte s b)
    refine ⟨buf, count, queue, later.trans ?_⟩
    rcases appendByte_cases s b with ⟨-, first⟩ | ⟨-, first⟩ <;> rw [first]

/-- Settles O13: the accepted ABSORB is the loop over the lanes and the count. -/
theorem absorbAppendsBytes : Obligations.AbsorbAppendsBytes := by
  intro cnt s idle ok phase some few fits
  have nothing : s.pending = [] := busy_eq_false.mp idle
  have lanes : (laneBytes s.dataIn cnt.toNat).length = cnt.toNat := laneBytes_length ..
  obtain ⟨stays, fills⟩ := appendBytes_validBytes (laneBytes s.dataIn cnt.toNat) s (by rwa [lanes])
  rw [lanes, nothing] at stays fills
  refine ⟨_, exec_absorb_accepted nothing ok phase ((countLegal_iff cnt).mpr ⟨some, few⟩) fits, ?_, stays, fills, ?_⟩
  · rw [countBytes_len, appendBytes_len, len_add_toNat fits]
  · obtain ⟨buf, count, queue, frame⟩ := appendBytes_frame (laneBytes s.dataIn cnt.toNat) s
    rw [frame]
    rfl

/-- Settles O44: the lanes that the accepted ABSORB appends are appended to the open message. -/
theorem absorbExtendsMessage : Obligations.AbsorbExtendsMessage := by
  intro cnt m s idle ok phase held some few fits
  have lanes : (laneBytes s.dataIn cnt.toNat).length = cnt.toNat := laneBytes_length ..
  have appended := appendBytes_holdsOpen (bytes := laneBytes s.dataIn cnt.toNat) held (by rwa [lanes]) (by rwa [lanes])
  rw [lanes] at appended
  exact ⟨_, exec_absorb_accepted (busy_eq_false.mp idle) ok phase ((countLegal_iff cnt).mpr ⟨some, few⟩)
    (by rwa [held.length]), by simpa using phase, by simpa using ok, appended⟩

/-! ### FINAL -/

/-- The padding fills the message up to whole blocks (41 R142). -/
theorem padZeros_spec (n : Nat) : padZeros n < 64 ∧ (n + 1 + padZeros n + 8) % 64 = 0 := by
  unfold padZeros
  omega

/-- A string of whole blocks is its blocks' bytes. -/
theorem blockBytes_blocksOf {m : List Byte} (whole : m.length % 64 = 0) : blockBytes (blocksOf m) = m := by
  obtain ⟨bs, t, short, rfl⟩ := exists_blockBytes_append m
  rw [List.length_append, blockBytes_length] at whole
  obtain rfl : t = [] := List.length_eq_zero_iff.mp (by omega)
  rw [blocksOf_blockBytes_append, blocksOf_of_short (by decide), List.append_nil, List.append_nil]

/-- The blocks that FINAL queues are, byte for byte, the padded valid bytes (40_commands R104). -/
theorem blockBytes_finalBlocks (s : State) : blockBytes (finalBlocks s) = pad (validBytes s) s.len.toNat := by
  have bound := s.bufCnt.isLt
  have length := pad_length (validBytes s) s.len.toNat (by rw [validBytes_length]; omega)
  rw [finalBlocks_eq_blocksOf, blockBytes_blocksOf]
  rw [length]
  split <;> rfl

/-- Settles O15: the accepted FINAL queues the blocks of the padded valid bytes, and nothing was pending before. -/
theorem finalQueuesPaddedTail : Obligations.FinalQueuesPaddedTail := by
  intro s idle ok phase
  have nothing : s.pending = [] := busy_eq_false.mp idle
  have queued : (closeMessage s).pending = finalBlocks s := by rw [closeMessage_pending, nothing]; rfl
  obtain ⟨short, fills⟩ := padZeros_spec s.bufCnt.val
  refine ⟨closeMessage s, padZeros s.bufCnt.val, exec_final_accepted nothing ok phase, short, fills, ?_, ?_, rfl⟩
  · rw [queued, ← validBytes_length s]
    exact blockBytes_finalBlocks s
  · rw [queued, finalBlocks_length]

/-- Settles O45: the accepted FINAL closes the open message. -/
theorem finalClosesMessage : Obligations.FinalClosesMessage := fun _ s idle ok phase held =>
  ⟨closeMessage s, exec_final_accepted (busy_eq_false.mp idle) ok phase, rfl, ok, closeMessage_holdsClosed held⟩

/-- Settles O16: the command gate comes first, then the gate of ABSORB and FINAL. -/
theorem finalRejectedOrDropped : Obligations.FinalRejectedOrDropped := by
  intro s
  have gated (idle : busy s = false) : exec .final s = .next (messageGate closeMessage s) :=
    congrArg _ (commandGate_of_idle _ (busy_eq_false.mp idle))
  refine ⟨fun waiting => ?_, fun idle err => ?_, fun idle ok other => ?_, fun v opcode other => ?_⟩
  · exact exec_command_of_busy (v := 0x00000003#32) rfl waiting
  · rw [gated idle, messageGate_of_err _ err]
  · rw [gated idle, messageGate_of_no_message _ ok other, raiseError_of_no_err _ ok]
    rfl
  · exact decodeCommand_reservedBits (w := 0x00000003#32) (by decide) (by decide) opcode other

end Sys2Proof.Machine
end

section
/-! The register accesses other than writes to CMD (40_commands R105 to R113): each read returns the word held, or a draw. -/

namespace Sys2Proof.Machine

/-- A read of a register other than SEED and DIGEST returns the word held, in every phase (40_commands R106 to R108, R111,
R113). -/
theorem exec_readInstr_of_not_output {r : Reg} (other : ∀ i, r ≠ .readOnly (.seed i) ∧ r ≠ .readOnly (.digest i))
    (s : State) : exec (readInstr r) s = .next (receive r (storedWord s r) s) :=
  exec_readInstr_of_readsStored (.inr other)

/-- Settles O25: WRITE DATA_IN sets the field that READ DATA_IN returns and that reset clears. -/
theorem dataInHoldsLastWrite : Obligations.DataInHoldsLastWrite :=
  ⟨fun _ _ => rfl, exec_readInstr_of_not_output (r := .dataIn) fun _ => ⟨nofun, nofun⟩, rfl, resetSignal_dataIn⟩

/-- STATUS as a number, when no error is recorded (10_state R34). -/
theorem statusWord_toNat_of_no_err {s : State} (ok : s.err = false) (clear : s.errCode = 0) :
    (statusWord s).toNat = (busy s).toNat + 2 * (doneFlag s).toNat + 16 * (phaseNumber s.phase).toNat := by
  rw [statusWord_toNat, ok, clear]
  rfl

/-- Settles O26: the listed values are the sums of their fields. -/
theorem readStatusReturnsStatus : Obligations.ReadStatusReturnsStatus := by
  refine ⟨exec_readInstr_of_not_output (r := .readOnly .status) fun _ => ⟨nofun, nofun⟩, statusWord_reset,
    fun s ok clear => ?_, fun s phase nothing err code => BitVec.eq_of_toNat_eq ?_⟩
  · have number := statusWord_toNat_of_no_err ok clear
    refine ⟨fun phase queue => ?_, fun phase queue => ?_, fun phase queue => ?_, fun phase queue => ?_⟩ <;>
      refine BitVec.eq_of_toNat_eq (number.trans ?_) <;>
      simp [doneFlag, busy_toNat, phase, queue, phaseNumber]
  · rw [statusWord_toNat, busy_toNat, nothing, doneFlag, phase, err, code]
    rfl

/-- Settles O29: in DONE the output registers read as the words held, and otherwise as draws. -/
theorem outputReadsReturnStoredOrDraw : Obligations.OutputReadsReturnStoredOrDraw := by
  intro i s
  refine ⟨fun done => ⟨?_, ?_⟩, fun running => ⟨?_, ?_⟩⟩
  · exact exec_readInstr_of_readsStored (r := .readOnly (.seed i)) (.inl done)
  · exact exec_readInstr_of_readsStored (r := .readOnly (.digest i)) (.inl done)
  · exact congrArg _ (if_neg running)
  · exact congrArg _ (if_neg running)

/-- Settles O30: CMD and the reserved offsets hold the word 0, and a write of a reserved offset is ignored. -/
theorem cmdAndReservedReadZero : Obligations.CmdAndReservedReadZero :=
  ⟨exec_readInstr_of_not_output (r := .cmd) fun _ => ⟨nofun, nofun⟩,
    fun r s => ⟨exec_readInstr_of_not_output (r := .reserved r) (fun _ => ⟨nofun, nofun⟩) s, fun _ => rfl⟩⟩

/-- Settles O31: the access is ignored, whatever the register and the value. -/
theorem readOnlyWritesIgnored : Obligations.ReadOnlyWritesIgnored := fun _ _ _ => rfl

end Sys2Proof.Machine
end

section
/-! SHA-256 as 41_sha256_engine R141 to R152 state it: the padding, the message schedule, the functions of a round, the
compression, the outputs and the constants. -/

namespace Sys2Proof.Machine

/-! ### The padding -/

/-- The first `k` bytes of `be64(n)` read big-endian are the highest `8 k` bits of `n` (00_scope R11). -/
theorem foldl_be64_take {n k : Nat} (small : n < 2 ^ 64) (inside : k ≤ 8) :
    ((be64 n).take k).foldl (fun acc b => 256 * acc + b.toNat) 0 = n / 2 ^ (8 * (8 - k)) := by
  induction k with
  | zero => exact (Nat.div_eq_of_lt small).symm
  | succ k ih =>
    have next : (be64 n)[k]? = some ((BitVec.ofNat 64 n).extractLsb' (8 * (7 - k)) 8) := by
      simp [be64, show k < 8 by omega]
    have higher : n / 2 ^ (8 * (8 - k)) = n / 2 ^ (8 * (7 - k)) / 256 := by
      rw [Nat.div_div_eq_div_mul, show 8 * (8 - k) = 8 * (7 - k) + 8 by omega, Nat.pow_add]
    have byte : ((BitVec.ofNat 64 n).extractLsb' (8 * (7 - k)) 8).toNat = n / 2 ^ (8 * (7 - k)) % 256 := by
      rw [BitVec.extractLsb'_toNat, BitVec.toNat_ofNat, Nat.mod_eq_of_lt small, Nat.shiftRight_eq_div_pow]
    calc ((be64 n).take (k + 1)).foldl (fun acc b => 256 * acc + b.toNat) 0
      _ = 256 * (n / 2 ^ (8 * (8 - k))) + n / 2 ^ (8 * (7 - k)) % 256 := by
        rw [List.take_add_one, next, List.foldl_append, ih (by omega), ← byte]; rfl
      _ = n / 2 ^ (8 * (8 - (k + 1))) := by
        rw [higher, show 8 - (k + 1) = 7 - k by omega, Nat.div_add_mod]

/-- Settles O37: the number of zero bytes is the rule's, and the eight bytes of the length are read back. -/
theorem paddingShape : Obligations.PaddingShape := by
  intro tail len short small
  have field : (be64 (8 * len)).length = 8 := by simp [be64]
  refine ⟨padZeros tail.length, ?_, rfl, pad_length tail len short, field, ?_⟩
  · unfold padZeros
    omega
  · simpa [List.take_of_length_le, field] using foldl_be64_take small (le_refl 8)

/-! ### The message schedule -/

theorem extendSchedule_succ (n : Nat) (ws : List Word) :
    extendSchedule (n + 1) ws = nextScheduleWord (extendSchedule n ws) :: extendSchedule n ws := by
  induction n generalizing ws with
  | zero => rfl
  | succ n ih => rw [extendSchedule, ih]; rfl

theorem extendSchedule_length (n : Nat) (ws : List Word) : (extendSchedule n ws).length = n + ws.length := by
  induction n with
  | zero => simp [extendSchedule]
  | succ n ih => rw [extendSchedule_succ, List.length_cons, ih]; omega

theorem parseBlock_length (b : Block) : (parseBlock b).length = 16 := by
  simp [parseBlock]

/-- Extending the schedule puts words before the earlier ones. -/
theorem suffix_extendSchedule {n k : Nat} (le : n ≤ k) (ws : List Word) :
    extendSchedule n ws <:+ extendSchedule k ws := by
  induction le with
  | refl => exact List.suffix_refl _
  | step _ ih => rw [Nat.succ_eq_add_one, extendSchedule_succ]; exact ih.trans (List.suffix_cons _ _)

theorem messageSchedule_length (b : Block) : (messageSchedule b).length = 64 := by
  rw [messageSchedule, List.length_reverse, extendSchedule_length, List.length_reverse, parseBlock_length]

/-- The schedule's words up to `15 + n`, from the newest of them back (41 R144). -/
theorem messageSchedule_getD {b : Block} {n t : Nat} (few : n ≤ 48) (early : t < 16 + n) :
    (messageSchedule b).getD t 0 = (extendSchedule n (parseBlock b).reverse).getD (15 + n - t) 0 := by
  obtain ⟨later, whole⟩ := suffix_extendSchedule few (parseBlock b).reverse
  have length : (extendSchedule n (parseBlock b).reverse).reverse.length = 16 + n := by
    rw [List.length_reverse, extendSchedule_length, List.length_reverse, parseBlock_length]; omega
  rw [messageSchedule, ← whole, List.reverse_append, List.getD_append _ _ _ _ (by omega)]
  rw [List.length_reverse] at length
  rw [List.getD_reverse _ (by omega), length]
  congr 1
  omega

theorem byteAt_toList (b : Block) {k : Nat} (inside : k < 64) : byteAt b.toList k = b[k] := by
  simp [byteAt, inside]

/-- The first sixteen words of the schedule are the block's (41 R143, R144). -/
theorem messageSchedule_getD_first (b : Block) {t : Nat} (first : t < 16) :
    (messageSchedule b).getD t 0 = be32 b.toList (4 * t) := by
  rw [messageSchedule_getD (n := 0) (by omega) first, extendSchedule,
    List.getD_reverse _ (by rw [parseBlock_length]; omega), parseBlock_length, show 16 - 1 - (15 + 0 - t) = t by omega]
  simp [parseBlock, first]

/-- Each later word of the schedule is the next one after those before it, newest first (41 R144). -/
theorem messageSchedule_getD_next (b : Block) {n : Nat} (few : n < 48) :
    (messageSchedule b).getD (16 + n) 0 = nextScheduleWord (extendSchedule n (parseBlock b).reverse) := by
  rw [messageSchedule_getD (n := n + 1) few (by omega), extendSchedule_succ, show 15 + (n + 1) - (16 + n) = 0 by omega,
    List.getD_cons_zero]

/-- Settles O38: the first words are the block's, and each later word is made from the words before it. -/
theorem messageScheduleRecurrence : Obligations.MessageScheduleRecurrence := by
  refine fun b => ⟨messageSchedule_length b, fun t first => ?_, fun t later last => ?_⟩
  · rw [messageSchedule_getD_first b first, be32, byteAt_toList b (by omega), byteAt_toList b (by omega),
      byteAt_toList b (by omega), byteAt_toList b (by omega)]
  · obtain ⟨n, rfl⟩ := Nat.exists_eq_add_of_le later
    have earlier (j : Nat) (some : 1 ≤ j) (recent : j ≤ 16) : (messageSchedule b).getD (16 + n - j) 0 =
        (extendSchedule n (parseBlock b).reverse).getD (j - 1) 0 := by
      rw [messageSchedule_getD (n := n) (by omega) (by omega), show 15 + n - (16 + n - j) = j - 1 by omega]
    rw [messageSchedule_getD_next b (by omega), earlier 2 (by decide) (by decide), earlier 7 (by decide) (by decide),
      earlier 15 (by decide) (by decide), earlier 16 (by decide) (by decide), nextScheduleWord]

/-! ### The functions of a round -/

/-- Settles O39: both functions act on each bit alone. -/
theorem chooseAndMajorityBitwise : Obligations.ChooseAndMajorityBitwise := by
  intro x y z i
  simp only [ch, maj, BitVec.getLsbD_xor, BitVec.getLsbD_and, BitVec.getLsbD_not]
  constructor
  · cases x.getLsbD i with
    | true => simp
    | false =>
      by_cases inside : i < 32
      · simp [inside]
      · simp [inside, BitVec.getLsbD_of_ge z i (Nat.le_of_not_lt inside)]
  · cases x.getLsbD i with
    | true => cases y.getLsbD i <;> simp
    | false => simp

/-- ROTR by less than the width is the rotation of the whole word (00_scope R10). -/
theorem rotr_eq_rotateRight (x : Word) {n : Nat} (inside : n < 32) : rotr x n = x.rotateRight n := by
  rw [BitVec.rotateRight_def, Nat.mod_eq_of_lt inside]
  rfl

/-- Settles O40: each ROTR is a rotation of the whole word, and SHR is the shift. -/
theorem sigmasAreRotations : Obligations.SigmasAreRotations := by
  intro x
  refine ⟨?_, ?_, ?_, ?_⟩
  · simp only [bigSigma0, rotr_eq_rotateRight, Nat.reduceLT]
  · simp only [bigSigma1, rotr_eq_rotateRight, Nat.reduceLT]
  · simp only [smallSigma0, shr, rotr_eq_rotateRight, Nat.reduceLT]
  · simp only [smallSigma1, shr, rotr_eq_rotateRight, Nat.reduceLT]

/-! ### The compression -/

/-- The working variables before round `t` (41 R149). -/
def workingBefore (h : Words8) (b : Block) (t : Nat) : Working :=
  runRounds (loadWorking h) ((roundConstants.zip (messageSchedule b)).take t)

/-- Round `t` uses K[t] and W[t] (41 R149). -/
theorem workingBefore_succ (h : Words8) (b : Block) {t : Nat} (inside : t < 64) :
    workingBefore h b (t + 1) =
      shaRound (workingBefore h b t) (roundConstants.getD t 0) ((messageSchedule b).getD t 0) := by
  have constants : t < roundConstants.length := inside
  have words : t < (messageSchedule b).length := by rwa [messageSchedule_length]
  have pair : (roundConstants.zip (messageSchedule b))[t]? =
      some (roundConstants.getD t 0, (messageSchedule b).getD t 0) := by
    rw [List.getD_eq_getElem _ _ constants, List.getD_eq_getElem _ _ words,
      List.getElem?_eq_getElem (by rw [List.length_zip]; omega), List.getElem_zip]
  rw [workingBefore, List.take_add_one, pair, runRounds, List.foldl_append]
  rfl

/-- Compress adds the chaining value to the working variables after the last round (41 R150). -/
theorem compress_eq_workingBefore (h : Words8) (b : Block) :
    compress h b = Vector.ofFn fun i : Fin 8 => h[i] + (workingWords (workingBefore h b 64))[i] := by
  have all : (roundConstants.zip (messageSchedule b)).take 64 = roundConstants.zip (messageSchedule b) :=
    List.take_of_length_le (by rw [List.length_zip, messageSchedule_length]; exact Nat.min_le_right _ _)
  rw [workingBefore, all]
  rfl

/-- Settles O41: the working variables before each round are those that the run of the rounds passes through. -/
theorem compressRunsSixtyFourRounds : Obligations.CompressRunsSixtyFourRounds := by
  refine fun h b => ⟨workingBefore h b, rfl, fun t inside => ⟨_, _, rfl, rfl, workingBefore_succ h b inside⟩, ?_⟩
  rw [compress_eq_workingBefore]
  rfl

/-! ### The outputs -/

/-- The four byte lanes of a word, the highest first, are the word (20_memory R53). -/
theorem lanes_append (w : Word) : lane w 3 ++ lane w 2 ++ lane w 1 ++ lane w 0 = w := by
  unfold lane
  rw [BitVec.extractLsb'_append_extractLsb'_eq_extractLsb' (start₂ := 8 * 3) rfl,
    BitVec.extractLsb'_append_extractLsb'_eq_extractLsb' (start₂ := 8 * 2) rfl,
    BitVec.extractLsb'_append_extractLsb'_eq_extractLsb' (start₂ := 8 * 1) rfl]
  exact BitVec.extractLsb'_eq_self

/-- A big-endian word of the digest is the word of the chaining value (00_scope R11, 41 R141). -/
theorem be32_digestBytes (h : Words8) (i : Fin 8) : be32 (digestBytes h) (4 * i.val) = h[i] := by
  fin_cases i <;> exact lanes_append _

theorem seedWords_getElem (h : Words8) (i : Fin 8) : (seedWords h)[i] = bswap32 h[i] := by
  simp [seedWords]

/-- Settles O36: each word of the digest is read back from its four bytes. -/
theorem outputsFromChainingValue : Obligations.OutputsFromChainingValue := by
  refine ⟨fun h => rfl, fun h i => ⟨be32_digestBytes h i, le32_digestBytes h i, seedWords_getElem h i⟩, fun m => ?_⟩
  rw [← seedWords_map_toInt32]
  exact List.ext_getElem (by simp) fun i _ _ => by simp

/-! ### The constants -/

/-- The primes below 312. -/
def primesTo311 : List Nat :=
  [2, 3, 5, 7, 11, 13, 17, 19, 23, 29, 31, 37, 41, 43, 47, 53, 59, 61, 67, 71, 73, 79, 83, 89, 97, 101, 103, 107, 109,
   113, 127, 131, 137, 139, 149, 151, 157, 163, 167, 173, 179, 181, 191, 193, 197, 199, 211, 223, 227, 229, 233, 239,
   241, 251, 257, 263, 269, 271, 277, 281, 283, 293, 307, 311]

theorem primesTo311_eq_filter :
    primesTo311 = (List.range 312).filter (fun n => decide (2 ≤ n ∧ ∀ d < n, 2 ≤ d → n % d ≠ 0)) := by
  decide +kernel

/-- The first 32 fractional bits of the square roots of the first eight primes (41 R151). -/
theorem initialHash_square_roots : ∀ i : Fin 8, ∃ a < 5,
    (a * 2 ^ 32 + (initialHash[i]).toNat) ^ 2 ≤ primesTo311.getD i.val 0 * 2 ^ 64 ∧
      primesTo311.getD i.val 0 * 2 ^ 64 < (a * 2 ^ 32 + (initialHash[i]).toNat + 1) ^ 2 := by
  decide

/-- The first 32 fractional bits of the cube roots of the first 64 primes (41 R152). -/
theorem roundConstants_cube_roots : ∀ t < 64, ∃ a < 7,
    (a * 2 ^ 32 + (roundConstants.getD t 0).toNat) ^ 3 ≤ primesTo311.getD t 0 * 2 ^ 96 ∧
      primesTo311.getD t 0 * 2 ^ 96 < (a * 2 ^ 32 + (roundConstants.getD t 0).toNat + 1) ^ 3 := by
  decide

/-- Settles O42: the primes are listed, and each constant lies within one unit below its root. -/
theorem constantsFromPrimeRoots : Obligations.ConstantsFromPrimeRoots :=
  ⟨primesTo311, primesTo311_eq_filter, rfl, rfl, initialHash_square_roots, roundConstants_cube_roots⟩

end Sys2Proof.Machine
end

section
/-! What the engine's turn and every other step do to the message that the block serves (41_sha256_engine R140, R153;
60_exceptions R207, R218). -/

namespace Sys2Proof.Machine

/-! ### The engine's turn -/

/-- The engine's turn with a block pending: the queue and the phase choose whether it delivers (41 R140). -/
theorem engineStep_of_pending_cons {s : State} {b : Block} {rest : List Block} (pending : s.pending = b :: rest) :
    engineStep s = if rest = [] ∧ s.phase = .finalizing then deliverDigest (compressHead b rest s)
      else compressHead b rest s := by
  simp [engineStep, pending]

/-- Settles O35: the block and the phase decide what the turn does, and it writes H, PENDING and the outputs only. -/
theorem engineTurnCompressesHead : Obligations.EngineTurnCompressesHead := by
  refine ⟨fun s b rest turn pending => ?_, fun s => engineStep_of_pending_nil, fun s e c d l k => ?_⟩
  · rw [step_of_engine_turn turn, engineStep_of_pending_cons (s := popTurn s) pending]
    by_cases last : rest = [] ∧ s.phase = .finalizing
    · rw [if_pos last, if_pos (by exact last)]
      obtain ⟨rfl, -⟩ := last
      rfl
    · rw [if_neg last, if_neg (by exact last)]
      rfl
  · by_cases nothing : s.pending = []
    · rw [engineStep_of_pending_nil nothing]
      exact engineStep_of_pending_nil nothing
    · obtain ⟨b, rest, pending⟩ := List.exists_cons_of_ne_nil nothing
      rw [engineStep_of_pending_cons pending]
      refine (engineStep_of_pending_cons (s := { s with err := e, errCode := c, dataIn := d, len := l, bufCnt := k })
        pending).trans ?_
      split <;> rfl

/-- Settles O46: a closed message has a block pending, so the turn that empties the queue delivers. -/
theorem engineServesSameMessage : Obligations.EngineServesSameMessage := by
  refine fun m s serves => ⟨engineStep_serves serves, fun closed emptied => ?_⟩
  rcases engineStep_cases s with ⟨nothing, -⟩ | ⟨b, rest, -, more, he⟩ | ⟨b, -, -, he⟩
  · exact absurd nothing ((serves_iff_of_finalizing closed).mp serves).waiting
  · rw [he] at emptied
    exact absurd emptied (more.resolve_right (not_not.mpr closed))
  · rw [he]
    rfl

/-! ### Every step -/

/-- `t` is `s` but for the error record, DATA_IN and the fields that are not the block's. -/
def SameMessage (s t : State) : Prop :=
  ∃ err code word ops turns readings count, t =
    { s with err := err, errCode := code, dataIn := word, host := ops, schedule := turns, received := readings,
             draws := count }

section
variable {m : List Byte} {s t u : State}

theorem SameMessage.trans (first : SameMessage s t) (second : SameMessage t u) : SameMessage s u := by
  obtain ⟨_, _, _, _, _, _, _, rfl⟩ := first
  obtain ⟨err, code, word, ops, turns, readings, count, rfl⟩ := second
  exact ⟨err, code, word, ops, turns, readings, count, rfl⟩

theorem raiseError_sameMessage (e : ErrorCode) (s : State) : SameMessage s (raiseError e s) := by
  rcases raiseError_cases e s with ⟨-, he⟩ | ⟨-, he⟩ <;> rw [he] <;> exact ⟨_, _, _, _, _, _, _, rfl⟩

/-- What the block holds of a message does not depend on the error record or on DATA_IN (60_exceptions R204). -/
theorem Serves.of_sameMessage (serves : Serves m s) (same : SameMessage s t) : Serves m t := by
  have phase_eq : t.phase = s.phase := by obtain ⟨_, _, _, _, _, _, _, rfl⟩ := same; rfl
  cases phase : s.phase with
  | idle => exact absurd serves (not_serves_of_idle phase)
  | absorbing =>
    obtain ⟨length, filled, tail, chain⟩ := (serves_iff_of_absorbing phase).mp serves
    refine (serves_iff_of_absorbing (phase_eq.trans phase)).mpr ?_
    obtain ⟨_, _, _, _, _, _, _, rfl⟩ := same
    exact ⟨length, filled, tail, chain⟩
  | finalizing =>
    obtain ⟨length, waiting, chain⟩ := (serves_iff_of_finalizing phase).mp serves
    refine (serves_iff_of_finalizing (phase_eq.trans phase)).mpr ?_
    obtain ⟨_, _, _, _, _, _, _, rfl⟩ := same
    exact ⟨length, waiting, chain⟩
  | done =>
    obtain ⟨length, pending, digest, seed⟩ := (serves_iff_of_done phase).mp serves
    refine (serves_iff_of_done (phase_eq.trans phase)).mpr ?_
    obtain ⟨_, _, _, _, _, _, _, rfl⟩ := same
    exact ⟨length, pending, digest, seed⟩

/-- The block is IDLE or serves some message of at most 2^61 - 1 bytes. -/
def IdleOrServes (s : State) : Prop :=
  s.phase = .idle ∨ ∃ m : List Byte, m.length ≤ Config.maxMsgBytes ∧ Serves m s

theorem IdleOrServes.of_sameMessage (good : IdleOrServes s) (same : SameMessage s t) : IdleOrServes t := by
  rcases good with idle | ⟨m, short, serves⟩
  · obtain ⟨_, _, _, _, _, _, _, rfl⟩ := same
    exact .inl idle
  · exact .inr ⟨m, short, serves.of_sameMessage same⟩

/-- In ABSORBING the message served is the open one. -/
theorem IdleOrServes.holdsOpen (good : IdleOrServes s) (phase : s.phase = .absorbing) :
    ∃ m : List Byte, m.length ≤ Config.maxMsgBytes ∧ HoldsOpen m s := by
  rcases good with idle | ⟨m, short, serves⟩
  · rw [phase] at idle
    cases idle
  · exact ⟨m, short, (serves_iff_of_absorbing phase).mp serves⟩

/-- INIT opens the empty message, ABSORB lengthens the open one, FINAL closes it; no other instruction reaches what the
block holds of a message (40_commands R102 to R104). -/
theorem ExecEffect.keeps_idleOrServes {i : Instr} (effect : ExecEffect i s t) (good : IdleOrServes s) :
    IdleOrServes t := by
  cases effect with
  | unchanged => exact good
  | raised e => exact good.of_sameMessage (raiseError_sameMessage e s)
  | opened hi idle =>
    have opens := openMessage_holdsOpen (busy_eq_false.mp idle)
    exact .inr ⟨[], Nat.zero_le _, (serves_iff_of_absorbing rfl).mpr opens⟩
  | absorbed cnt hi idle ok phase legal fits =>
    obtain ⟨m, -, held⟩ := good.holdsOpen phase
    obtain ⟨-, few⟩ := (countLegal_iff cnt).mp legal
    have lanes : (laneBytes s.dataIn cnt.toNat).length = cnt.toNat := laneBytes_length ..
    rw [held.length, ← lanes] at fits
    have appended := appendBytes_holdsOpen held (by rwa [lanes]) fits
    rw [lanes] at appended
    exact .inr ⟨_, by rwa [List.length_append], (serves_iff_of_absorbing (by simpa using phase)).mpr appended⟩
  | closed hi idle ok phase =>
    obtain ⟨m, short, held⟩ := good.holdsOpen phase
    exact .inr ⟨m, short, (serves_iff_of_finalizing rfl).mpr (closeMessage_holdsClosed held)⟩
  | stored v hi => exact good.of_sameMessage ⟨_, _, _, _, _, _, _, rfl⟩
  | read r v => exact good.of_sameMessage ⟨_, _, _, _, _, _, _, rfl⟩
  | drawn r phase => exact good.of_sameMessage ⟨_, _, _, _, _, _, _, rfl⟩

/-- The engine's turn in IDLE stays there, and otherwise the engine serves on (41 R140, 60_exceptions R207). -/
theorem engineStep_idleOrServes (good : IdleOrServes s) : IdleOrServes (engineStep s) := by
  rcases good with idle | ⟨m, short, serves⟩
  · rcases engineStep_delivers_or_keeps s with ⟨closed, -, -⟩ | ⟨kept, -, -⟩
    · rw [idle] at closed
      cases closed
    · exact .inl (kept.trans idle)
  · exact .inr ⟨m, short, engineStep_serves serves⟩

/-- An access, a poll, a reset or the engine's turn leaves the block IDLE or serving a message (60_exceptions R207,
R218). -/
theorem StepEffect.keeps_idleOrServes (effect : StepEffect s t) (good : IdleOrServes s) : IdleOrServes t := by
  have turned (rest : List HostOp) : IdleOrServes { popTurn s with host := rest } :=
    good.of_sameMessage ⟨_, _, _, _, _, _, _, rfl⟩
  cases effect with
  | engine turn => exact engineStep_idleOrServes (turned s.host)
  | idle turn => exact turned s.host
  | instr turn a rest i _ op decoded effect => exact effect.keeps_idleOrServes (turned rest)
  | decodeError turn a rest e op => exact (turned rest).of_sameMessage (raiseError_sameMessage e _)
  | poll turn addr mask value rest op u _ reading goes =>
    have read : SameMessage s u := by
      rcases reading with rfl | ⟨r, v, rfl⟩ | ⟨r, -, rfl⟩ <;> exact ⟨_, _, _, _, _, _, _, rfl⟩
    rcases goes with rfl | rfl
    · exact good.of_sameMessage read
    · exact good.of_sameMessage (read.trans ⟨_, _, _, _, _, _, _, rfl⟩)
  | reset turn rest op => exact .inl rfl

end

/-- Settles O47: every effect a step can have leaves the block IDLE or serving a message. -/
theorem everyStepServesSomeMessage : Obligations.EveryStepServesSomeMessage :=
  fun _ _ good h => (step_effect h).keeps_idleOrServes good

end Sys2Proof.Machine
end

section
/-! Streams of a message (41_sha256_engine R153, R154): what they deliver, and that it depends on the bytes alone. -/

namespace Sys2Proof.Machine

/-- Settles O48: the digest delivered, word by word. -/
theorem streamedMessageDelivered : Obligations.StreamedMessageDelivered := by
  intro s groups m idle legal bytes fits program
  obtain ⟨n, t, run, point, done, -, pending, digest, seed⟩ := reaches_delivered_of_stream (rest := [])
    (busy_eq_false.mp idle) legal bytes fits (by rw [program, List.append_nil])
  refine ⟨n, t, run, point.program, done, pending, point.err, fun i => ⟨?_, ?_⟩⟩
  · rw [digest, be32_digestBytes]
  · rw [seed, le32_digestBytes, seedWords_getElem]

/-! ### After the last WAIT -/

section
variable {s t u : State}

/-- A step performs at most the host's next operation, and never moves the window (00_scope R13, 20_memory R60). -/
theorem step_window_host (h : step s = .next t) :
    t.window = s.window ∧ (t.host = s.host ∨ ∃ op, s.host = op :: t.host) := by
  cases step_effect h with
  | engine turn => simp
  | idle turn => simp
  | instr turn a rest i _ op decoded effect =>
    obtain ⟨window, host⟩ : t.window = s.window ∧ t.host = rest := by cases effect <;> simp
    exact ⟨window, .inr ⟨.access a, by rw [op, host]⟩⟩
  | decodeError turn a rest e op => simp [op]
  | poll turn addr mask value rest op u _ reading goes =>
    obtain ⟨window, host⟩ : u.window = s.window ∧ u.host = s.host := by
      rcases reading with rfl | ⟨r, v, rfl⟩ | ⟨r, -, rfl⟩ <;> exact ⟨rfl, rfl⟩
    rcases goes with rfl | rfl
    · exact ⟨window, .inl host⟩
    · exact ⟨window, .inr ⟨_, op⟩⟩
  | reset turn rest op => simp [op]

/-- The host has a WAIT as the last operation still to do, or it has nothing to do and nothing is pending. -/
def EndsWithWait (s : State) : Prop := (∃ ops, s.host = ops ++ waitOps (base s)) ∨ (s.host = [] ∧ s.pending = [])

/-- With nothing pending and no operation left a step changes the schedule only (60_exceptions R217, log 3). -/
theorem step_of_settled (host : s.host = []) (nothing : s.pending = []) : step s = .next (popTurn s) := by
  cases turn : nextAgent s with
  | host => rw [step_of_host_turn turn, hostTurn, popTurn_host, host]
  | engine => rw [step_of_engine_turn turn, engineStep_of_pending_nil (s := popTurn s) nothing]

/-- The host leaves its last WAIT only with nothing pending (30_encoding R81). -/
theorem step_keeps_endsWithWait (h : step s = .next t) (waits : EndsWithWait s) : EndsWithWait t := by
  obtain ⟨window, progress⟩ := step_window_host h
  have sameBase : base t = base s := by rw [base, base, window]
  rcases waits with ⟨ops, program⟩ | ⟨host, nothing⟩
  · cases ops with
    | cons _ ops =>
      rcases progress with same | ⟨op, next⟩
      · exact .inl ⟨_, by rw [same, program, sameBase]⟩
      · rw [program, List.cons_append] at next
        exact .inl ⟨ops, by rw [sameBase, (List.cons.inj next).2]⟩
    | nil =>
      rw [List.nil_append] at program
      cases turn : nextAgent s with
      | engine =>
        rw [step_of_engine_turn turn] at h
        cases h
        exact .inl ⟨[], by simpa [base] using program⟩
      | host =>
        rw [step_of_wait (rest := []) turn (by rw [program, List.append_nil])] at h
        cases h
        split
        next nothing => exact .inr ⟨rfl, nothing⟩
        next => exact .inl ⟨[], program⟩
  · rw [step_of_settled host nothing] at h
    cases h
    exact .inr ⟨host, nothing⟩

/-- What every step keeps holds at the end of a run. -/
theorem reachesIn_keeps {P : State → Prop} (keeps : ∀ s t, step s = .next t → P s → P t) {n : Nat}
    (run : reachesIn n s t) (start : P s) : P t := by
  induction n generalizing s with
  | zero => cases run; exact start
  | succ n ih =>
    obtain ⟨u, first, later⟩ := run
    exact ih later (keeps s u first start)

/-- So once the host has nothing left to do, nothing is pending. -/
theorem pending_of_stream_end {n : Nat} {ops : List HostOp} (program : s.host = ops ++ waitOps (base s))
    (run : reachesIn n s t) (host : t.host = []) : t.pending = [] := by
  have waits : EndsWithWait t := reachesIn_keeps (fun _ _ h => step_keeps_endsWithWait h) run (.inl ⟨ops, program⟩)
  rcases waits with ⟨ops, more⟩ | ⟨-, nothing⟩
  · rw [host] at more
    exact absurd more.symm (List.append_ne_nil_of_right_ne_nil _ nofun)
  · exact nothing

/-- A settled block stays as it is. -/
theorem sameBlock_of_settled {n : Nat} (host : s.host = []) (nothing : s.pending = []) (run : reachesIn n s t) :
    SameBlock s t := by
  induction n generalizing s with
  | zero => cases run; exact ⟨_, _, _, rfl⟩
  | succ n ih =>
    obtain ⟨u, first, later⟩ := run
    rw [step_of_settled host nothing] at first
    cases first
    exact SameBlock.trans (t := popTurn s) ⟨_, _, _, rfl⟩ (ih host nothing later)

/-- Any two ends of one stream hold the same outputs: the earlier one is settled and the other comes after it. -/
theorem outputs_of_stream_end {n k : Nat} {ops : List HostOp} (program : s.host = ops ++ waitOps (base s))
    (first : reachesIn n s t) (second : reachesIn k s u) (firstEnd : t.host = []) (secondEnd : u.host = []) :
    t.digest = u.digest ∧ t.seed = u.seed := by
  rcases Nat.le_total n k with le | le
  · obtain ⟨_, _, _, rfl⟩ := sameBlock_of_settled firstEnd (pending_of_stream_end program first firstEnd)
      (reachesIn_split first second le)
    exact ⟨rfl, rfl⟩
  · obtain ⟨_, _, _, rfl⟩ := sameBlock_of_settled secondEnd (pending_of_stream_end program second secondEnd)
      (reachesIn_split second first le)
    exact ⟨rfl, rfl⟩

/-- A stream whose host has nothing left to do has delivered the digest of the bytes put, for any order of the agents'
turns (41 R153; log 2). -/
theorem outputs_of_stream {n : Nat} {groups : List (Nat × Word)} (idle : busy s = false)
    (legal : ∀ g, g ∈ groups → 1 ≤ g.1 ∧ g.1 ≤ 4)
    (fits : (groups.map fun g => laneBytes g.2 g.1).flatten.length ≤ Config.maxMsgBytes)
    (program : s.host = [issue (base s) .init] ++ (groups.map fun g => putOps (base s) g.1 g.2).flatten ++
      [issue (base s) .final] ++ waitOps (base s))
    (run : reachesIn n s t) (host : t.host = []) :
    t.digest = sha256 (groups.map fun g => laneBytes g.2 g.1).flatten ∧
      t.seed = seedWords (sha256 (groups.map fun g => laneBytes g.2 g.1).flatten) := by
  obtain ⟨k, u, delivers, point, -, -, -, digest, seed⟩ := reaches_delivered_of_stream (rest := [])
    (busy_eq_false.mp idle) legal rfl fits (by rw [program, List.append_nil])
  obtain ⟨sameDigest, sameSeed⟩ := outputs_of_stream_end program run delivers host point.program
  exact ⟨sameDigest.trans digest, sameSeed.trans seed⟩

end

/-- Settles O50: the outputs of both runs are those of the bytes they absorb. -/
theorem digestIndependentOfSplit : Obligations.DigestIndependentOfSplit := by
  intro s s' t t' groups groups' n n' idle idle' legal legal' same fits program program' run run' host host'
  obtain ⟨digest, seed⟩ := outputs_of_stream idle legal fits program run host
  obtain ⟨digest', seed'⟩ := outputs_of_stream idle' legal' (same ▸ fits) program' run' host'
  rw [digest, digest', seed, seed', same]
  exact ⟨rfl, rfl⟩

end Sys2Proof.Machine
end

section
/-! Errors (60_exceptions R202 to R206, R210): what each command does to the error record, and which code a write to CMD
reports. -/

namespace Sys2Proof.Machine

/-! ### The error record -/

theorem raiseError_of_err (e : ErrorCode) {s : State} (err : s.err = true) : raiseError e s = s :=
  if_pos err

/-- Settles O20: the record is written when it is empty and kept when it is not. -/
theorem raiseErrorKeepsFirst : Obligations.RaiseErrorKeepsFirst := fun e _ =>
  ⟨raiseError_of_no_err e, raiseError_of_err e, rfl, rfl, rfl, rfl, rfl, rfl⟩

/-- An instruction keeps the error record, records an error and does nothing else, or is an accepted INIT
(60_exceptions R204, R206). -/
theorem ExecEffect.error_cases {i : Instr} {s t : State} (effect : ExecEffect i s t) :
    (t.err = s.err ∧ t.errCode = s.errCode) ∨ (∃ e, t = raiseError e s) ∨
      (i = .init ∧ busy s = false ∧ t = openMessage s) := by
  cases effect with
  | raised e => exact .inr (.inl ⟨e, rfl⟩)
  | opened hi idle => exact .inr (.inr ⟨hi, idle, rfl⟩)
  | unchanged | absorbed | closed | stored | read | drawn => exact .inl (by simp)

/-- Settles O22: among a command's effects only the recording of an error sets ERR. -/
theorem rejectedCommandIsPrecise : Obligations.RejectedCommandIsPrecise := by
  intro s t v ok h err
  have raised : ∃ e, t = raiseError e s := by
    rcases hostAccess_effect h with ⟨i, -, effect⟩ | raised
    · rcases effect.error_cases with ⟨kept, -⟩ | raised | ⟨-, -, rfl⟩
      · simp [kept, ok] at err
      · exact raised
      · simp at err
    · exact raised
  obtain ⟨e, rfl⟩ := raised
  rw [raiseError_of_no_err e ok]

/-- Settles O24: of the effects a step can have, only reset and an accepted INIT write a set error record. -/
theorem onlyInitAndResetClearError : Obligations.OnlyInitAndResetClearError := by
  intro s t err h
  cases step_effect h with
  | engine turn => exact .inl (by simp [err])
  | idle turn => exact .inl (by simp [err])
  | instr turn a rest i _ op decoded effect =>
    rcases effect.error_cases with ⟨keptErr, keptCode⟩ | ⟨e, rfl⟩ | ⟨rfl, idle, rfl⟩
    · exact .inl ⟨keptErr.trans err, keptCode⟩
    · exact .inl (by simp [err])
    · exact .inr ⟨rfl, rfl, turn, .inr ⟨a, rest, op, decoded, idle⟩⟩
  | decodeError turn a rest e op => exact .inl (by simp [err])
  | poll turn addr mask value rest op u _ reading goes =>
    have read : u.err = true ∧ u.errCode = s.errCode := by
      rcases reading with rfl | ⟨r, v, rfl⟩ | ⟨r, -, rfl⟩ <;> exact ⟨err, rfl⟩
    rcases goes with rfl | rfl
    · exact .inl read
    · exact .inl read
  | reset turn rest op => exact .inr ⟨rfl, rfl, turn, .inl ⟨rest, op⟩⟩

/-! ### A write to CMD while BUSY = 0 -/

section
variable {s : State} {v : Word}

theorem hostAccess_write_cmd_of_instr {i : Instr} (word : decodeCommand v = .instr i) :
    hostAccess (.write (base s) 4 v) s = exec i s :=
  hostAccess_of_instr ((decodeAccess_write_cmd (base s) v).trans word)

/-- With BUSY = 0 the handler records the decoder's error (40_commands R100). -/
theorem hostAccess_write_cmd_of_illegal {e : ErrorCode} (nothing : s.pending = []) (word : decodeCommand v = .illegal e) :
    hostAccess (.write (base s) 4 v) s = .next (raiseError e s) := by
  rw [hostAccess_of_illegal ((decodeAccess_write_cmd (base s) v).trans word),
    rejectCommand_of_idle e (busy_eq_false.mpr nothing)]

theorem exec_nop_of_idle (nothing : s.pending = []) : exec .nop s = .next s :=
  congrArg _ (commandGate_of_idle _ nothing)

/-- With BUSY = 0 an ABSORB of a legal count is up to the gate of ABSORB and FINAL (40_commands R103). -/
theorem exec_absorb_of_idle {cnt : BitVec 3} (nothing : s.pending = []) (legal : countLegal cnt = true) :
    exec (.absorb cnt) s = .next (messageGate (absorbBytes cnt.toNat) s) := by
  rw [exec_absorb_of_legal legal, commandGate_of_idle _ nothing]

/-- With BUSY = 0 a FINAL is up to the gate of ABSORB and FINAL (40_commands R104). -/
theorem exec_final_of_idle (nothing : s.pending = []) : exec .final s = .next (messageGate closeMessage s) :=
  congrArg _ (commandGate_of_idle _ nothing)

/-- While ERR = 1 every decoded command but INIT changes nothing (60_exceptions R205). -/
theorem exec_command_of_err {i : Instr} (err : s.err = true) (nothing : s.pending = [])
    (word : decodeCommand v = .instr i) (other : i ≠ .init) : exec i s = .next s := by
  rcases decodeCommand_instr_cases word with rfl | rfl | ⟨rfl, legal⟩ | rfl
  · exact exec_nop_of_idle nothing
  · exact absurd rfl other
  · rw [exec_absorb_of_idle nothing legal, messageGate_of_err _ err]
  · rw [exec_final_of_idle nothing, messageGate_of_err _ err]

/-- Only INIT's word decodes to INIT (30_encoding R74). -/
theorem word_of_decodeCommand_init (word : decodeCommand v = .instr .init) : v = 0x00000001#32 := by
  obtain ⟨-, encoded⟩ := encode_of_decodeWrite (r := .cmd) 0 word
  cases encoded
  rfl

end

/-- Settles O23: the record is kept, the gate drops ABSORB and FINAL, and INIT is not gated. -/
theorem errorGateDropsCommands : Obligations.ErrorGateDropsCommands := by
  refine fun s err => ⟨fun v reason => ?_, fun idle => ⟨openMessage s, ?_, rfl, rfl, rfl⟩⟩
  · cases waiting : busy s with
    | true => rw [hostAccess_write_cmd_of_busy v waiting, raiseError_of_err _ err]
    | false =>
      have nothing : s.pending = [] := busy_eq_false.mp waiting
      have notInit : v ≠ 0x00000001#32 := reason.resolve_left (by simp [waiting])
      cases word : decodeCommand v with
      | instr i =>
        rw [hostAccess_write_cmd_of_instr word]
        exact exec_command_of_err err nothing word fun init => notInit (word_of_decodeCommand_init (init ▸ word))
      | illegal e => rw [hostAccess_write_cmd_of_illegal nothing word, raiseError_of_err e err]
      | refused r => exact absurd word (decodeCommand_ne_refused v r)
  · rw [hostAccess_write_cmd_of_instr rfl, exec_init_accepted (busy_eq_false.mp idle)]

/-! ### The code that a write to CMD reports -/

/-- A next state with that ERRCODE, and with ERR set exactly when the code is not 0 (60_exceptions R203). -/
def ReportsCode (outcome : Host.Outcome State Fault Refusal) (code : BitVec 3) : Prop :=
  ∃ t, outcome = .next t ∧ t.errCode = code ∧ (t.err = true ↔ code ≠ 0)

section
variable {s : State}

theorem raiseError_reportsCode (e : ErrorCode) (ok : s.err = false) :
    ReportsCode (.next (raiseError e s)) (errorNumber e) := by
  obtain ⟨nonzero, -⟩ := errorNumber_ne_zero_seven e
  exact ⟨_, rfl, by simp [ok], iff_of_true (raiseError_err e s) nonzero⟩

theorem reportsCode_zero (ok : s.err = false) (clear : s.errCode = 0) : ReportsCode (.next s) 0 :=
  ⟨s, rfl, clear, by simp [ok]⟩

/-- ABSORB and FINAL report SEQUENCE outside ABSORBING, and what their body reports otherwise (60_exceptions R203). -/
theorem messageGate_reportsCode {body : State → State} {code : BitVec 3} (ok : s.err = false)
    (accepted : ReportsCode (.next (body s)) code) :
    ReportsCode (.next (messageGate body s)) (if s.phase ≠ .absorbing then 5 else code) := by
  split
  next other => rw [messageGate_of_no_message body ok other]; exact raiseError_reportsCode .sequence ok
  next phase => rwa [messageGate_of_open body ok (not_not.mp phase)]

/-- An ABSORB that reaches its length check reports LENGTH_OVERFLOW or nothing (40_commands R103). -/
theorem absorbBytes_reportsCode (n : Nat) (ok : s.err = false) (clear : s.errCode = 0) :
    ReportsCode (.next (absorbBytes n s)) (if 2 ^ 61 - 1 < s.len.toNat + n then 6 else 0) := by
  rcases absorbBytes_cases n s with ⟨overflows, he⟩ | ⟨fits, he⟩ <;> rw [he]
  · rw [if_pos (show 2 ^ 61 - 1 < s.len.toNat + n from overflows)]
    exact raiseError_reportsCode .lengthOverflow ok
  · rw [if_neg (show ¬ 2 ^ 61 - 1 < s.len.toNat + n from Nat.not_lt.mpr fits)]
    exact reportsCode_zero (by simpa using ok) (by simpa using clear)

end

/-- The code that a write of `v` to CMD reports when no error is recorded (60_exceptions R203). -/
def commandErrorCode (s : State) (v : Word) : BitVec 3 :=
  if s.pending ≠ [] then 1
  else if 4 ≤ v.toNat % 256 then 2
  else if v.toNat / 2048 ≠ 0 ∨ (v.toNat % 256 ≠ 2 ∧ v.toNat / 256 % 8 ≠ 0) then 3
  else if v.toNat % 256 = 2 ∧ ¬ (1 ≤ v.toNat / 256 % 8 ∧ v.toNat / 256 % 8 ≤ 4) then 4
  else if 2 ≤ v.toNat % 256 ∧ s.phase ≠ .absorbing then 5
  else if v.toNat % 256 = 2 ∧ 2 ^ 61 - 1 < s.len.toNat + v.toNat / 256 % 8 then 6
  else 0

section
variable {s : State} {v : Word}

/-- With BUSY = 0 an illegal word reports the decoder's code. -/
theorem commandErrorCode_of_illegal {e : ErrorCode} (nothing : s.pending = []) (word : decodeCommand v = .illegal e) :
    commandErrorCode s v = errorNumber e := by
  rw [decodeInOrder v] at word
  rw [commandErrorCode, if_neg (not_not.mpr nothing)]
  split_ifs at word with opcode reserved operand count <;> cases word
  · rw [if_pos opcode]; rfl
  · rw [if_neg opcode, if_pos (.inl reserved)]; rfl
  · rw [if_neg opcode, if_pos (.inr operand)]; rfl
  · rw [if_neg opcode, if_neg (by tauto), if_pos count]; rfl

/-- With BUSY = 0 an ABSORB of a legal count reports SEQUENCE before LENGTH_OVERFLOW. -/
theorem commandErrorCode_absorbWord {cnt : BitVec 3} (nothing : s.pending = []) (legal : countLegal cnt = true) :
    commandErrorCode s (absorbWord cnt) =
      if s.phase ≠ .absorbing then 5 else if 2 ^ 61 - 1 < s.len.toNat + cnt.toNat then 6 else 0 := by
  obtain ⟨some, few⟩ := (countLegal_iff cnt).mp legal
  have opcode : (256 * cnt.toNat + 2) % 256 = 2 := by omega
  have count : (256 * cnt.toNat + 2) / 256 % 8 = cnt.toNat := by omega
  have reserved : (256 * cnt.toNat + 2) / 2048 = 0 := by omega
  simp [commandErrorCode, nothing, absorbWord_toNat, opcode, count, reserved, some, few]

/-- With no error recorded a write to CMD reports the first code that applies (60_exceptions R203). -/
theorem hostAccess_write_cmd_reportsCode (v : Word) (ok : s.err = false) (clear : s.errCode = 0) :
    ReportsCode (hostAccess (.write (base s) 4 v) s) (commandErrorCode s v) := by
  by_cases nothing : s.pending = []
  · cases word : decodeCommand v with
    | instr i =>
      rw [hostAccess_write_cmd_of_instr word]
      rcases word_of_decodeCommand word with ⟨rfl, rfl⟩ | ⟨rfl, rfl⟩ | ⟨cnt, legal, rfl, rfl⟩ | ⟨rfl, rfl⟩
      · have code : commandErrorCode s 0x00000000#32 = 0 := by simp [commandErrorCode, nothing]
        rw [exec_nop_of_idle nothing, code]
        exact reportsCode_zero ok clear
      · have code : commandErrorCode s 0x00000001#32 = 0 := by simp [commandErrorCode, nothing]
        rw [exec_init_accepted nothing, code]
        exact reportsCode_zero rfl rfl
      · rw [exec_absorb_of_idle nothing legal, commandErrorCode_absorbWord nothing legal]
        exact messageGate_reportsCode ok (absorbBytes_reportsCode _ ok clear)
      · have code : commandErrorCode s 0x00000003#32 = if s.phase ≠ .absorbing then 5 else 0 := by
          simp [commandErrorCode, nothing]
        rw [exec_final_of_idle nothing, code]
        exact messageGate_reportsCode ok (reportsCode_zero ok clear)
    | illegal e =>
      rw [hostAccess_write_cmd_of_illegal nothing word, commandErrorCode_of_illegal nothing word]
      exact raiseError_reportsCode e ok
    | refused r => exact absurd word (decodeCommand_ne_refused v r)
  · rw [hostAccess_write_cmd_of_busy v (busy_eq_true.mpr nothing), commandErrorCode, if_pos nothing]
    exact raiseError_reportsCode .busyViolation ok

end

/-- Settles O21: BUSY comes first, then the decoder's order; of the commands, FINAL can report SEQUENCE and ABSORB that or
LENGTH_OVERFLOW. -/
theorem commandErrorPriority : Obligations.CommandErrorPriority := by
  refine fun s v => ⟨fun ok clear => ?_, fun err nothing word => ?_⟩
  · obtain ⟨t, next, code, flag⟩ := hostAccess_write_cmd_reportsCode v ok clear
    exact ⟨t, _, next, code, flag, rfl⟩
  · refine (errorGateDropsCommands s err).1 v (.inr ?_)
    rintro rfl
    rcases word with ⟨cnt, word⟩ | word <;> cases word

end Sys2Proof.Machine
end

section
/-! Reset, the values read after it, and when BUSY is set (70_reset R230, R231, R234, R238; 10_state R44). -/

namespace Sys2Proof.Machine

/-! ### Reset -/

/-- Settles O58: the step is the reset signal, which leaves the host's part alone. -/
theorem resetSignalGivesResetValues : Obligations.ResetSignalGivesResetValues := by
  intro s rest turn program
  have first : step s = .next (resetSignal { popTurn s with host := rest }) := by
    rw [step_of_host_turn turn, hostTurn, popTurn_host, program]
  exact ⟨_, first, rfl, rfl, rfl, rfl, rfl, rfl, rfl, rfl, rfl, rfl, rfl⟩

/-- Power-on and an asserted reset both leave the block as 10_state R44 says. -/
theorem atReset_of_reset {s t : State} (origin : t = State.reset ∨ t = resetSignal s) : atReset t := by
  rcases origin with rfl | rfl <;> exact ⟨rfl, rfl, rfl, rfl, rfl, rfl, rfl⟩

/-- STATUS is 0 when the block is as reset leaves it: every field of it is (10_state R34, R44). -/
theorem statusWord_of_atReset {t : State} (fresh : atReset t) : statusWord t = 0 := by
  obtain ⟨phase, nothing, err, errCode, -, -, -⟩ := fresh
  apply BitVec.eq_of_toNat_eq
  rw [statusWord_toNat_of_no_err err errCode, busy_eq_false.mpr nothing, doneFlag, phase]
  rfl

/-- Settles O59: the words held are 0 after reset, and outside DONE the output registers read as draws. -/
theorem readsAfterReset : Obligations.ReadsAfterReset := by
  intro s t origin
  have fresh := atReset_of_reset origin
  have status := statusWord_of_atReset fresh
  obtain ⟨phase, -, -, -, len, -, dataIn⟩ := fresh
  have stored (r : Reg) (other : ∀ i, r ≠ .readOnly (.seed i) ∧ r ≠ .readOnly (.digest i))
      (zero : storedWord t r = 0) : exec (readInstr r) t = .next (receive r 0 t) := by
    rw [exec_readInstr_of_not_output other, zero]
  refine ⟨stored (.readOnly .status) (fun _ => ⟨nofun, nofun⟩) status, fun half => ?_,
    stored .dataIn (fun _ => ⟨nofun, nofun⟩) dataIn, fun i => ?_⟩
  · refine stored (.readOnly (.len half)) (fun _ => ⟨nofun, nofun⟩) ?_
    rw [storedWord, len]
    cases half <;> rfl
  · exact (outputReadsReturnStoredOrDraw i t).2 (by rw [phase]; nofun)

/-! ### BUSY -/

/-- An accepted ABSORB leaves a block pending exactly when its bytes fill BUF (40_commands R103). -/
theorem busy_after_absorb {s : State} {n : Nat} (nothing : s.pending = []) (few : n ≤ 4) :
    busy (countBytes n (appendBytes (laneBytes s.dataIn n) s)) = true ↔ 64 ≤ s.bufCnt.val + n := by
  obtain ⟨stays, fills⟩ := appendBytes_validBytes (laneBytes s.dataIn n) s (by rwa [laneBytes_length])
  rw [laneBytes_length, nothing] at stays fills
  rw [busy_eq_true, countBytes_pending]
  by_cases room : s.bufCnt.val + n < 64
  · obtain ⟨pending, -, -⟩ := stays room
    exact iff_of_false (not_not.mpr pending) (by omega)
  · obtain ⟨block, pending, -, -⟩ := fills (by omega)
    exact iff_of_true (by simp [pending]) (by omega)

/-- An accepted FINAL always leaves a block pending (40_commands R104). -/
theorem busy_closeMessage (s : State) : busy (closeMessage s) = true := by
  obtain ⟨some, -⟩ := finalBlocks_length_bounds s
  exact busy_eq_true.mpr (List.append_ne_nil_of_right_ne_nil _ (List.ne_nil_of_length_pos some))

/-- Settles O19: BUFCNT is LEN mod 64 under the invariant, FINAL queues a block, and BUSY turns away every write to CMD. -/
theorem commandWhileBusyHazard : Obligations.CommandWhileBusyHazard := by
  refine ⟨fun cnt s t inv idle ok phase legal fits h => ?_, fun s t idle ok phase h => ?_, fun s v waiting ok => ?_⟩
  · have nothing : s.pending = [] := busy_eq_false.mp idle
    obtain ⟨count, -⟩ := inv.absorbing phase
    obtain ⟨-, few⟩ := (countLegal_iff cnt).mp legal
    rw [exec_absorb_accepted nothing ok phase legal fits] at h
    cases h
    rw [busy_after_absorb nothing few, count]
  · rw [exec_final_accepted (busy_eq_false.mp idle) ok phase] at h
    cases h
    exact busy_closeMessage s
  · rw [hostAccess_write_cmd_of_busy v waiting, raiseError_of_no_err _ ok]
    rfl

/-! ### WAIT -/

theorem busy_drained (s : State) : busy (drained s) = false :=
  busy_eq_false.mpr (drained_pending s)

/-- Settles O51: a WAIT ends with the block that the engine has drained. -/
theorem waitEnds : Obligations.WaitEnds := by
  intro s rest program
  obtain ⟨n, t, bound, run, host, _, _, _, rfl⟩ := reaches_after_wait program
  exact ⟨n, _, bound, run, host, busy_drained s⟩

end Sys2Proof.Machine
end

section
/-! SEED and DIGEST outside DONE (70_reset R236, 00_scope R16): no instruction and no turn reads them. -/

namespace Sys2Proof.Machine

/-- The state with other words in SEED and DIGEST. -/
def withOutputs (x y : Words8) (s : State) : State := { s with seed := x, digest := y }

/-- An outcome with its next state, if it has one, changed by `f`. -/
def mapNext (f : State → State) : Host.Outcome State Fault Refusal → Host.Outcome State Fault Refusal
  | .next t => .next (f t)
  | .fault q => .fault q
  | .refused r => .refused r

section
variable {x y : Words8} {s : State}

/-! ### The commands -/

theorem raiseError_withOutputs (e : ErrorCode) (s : State) :
    raiseError e (withOutputs x y s) = withOutputs x y (raiseError e s) := by
  rcases raiseError_cases e s with ⟨err, kept⟩ | ⟨ok, recorded⟩
  · rw [kept, raiseError_of_err e (s := withOutputs x y s) err]
  · rw [recorded, raiseError_of_no_err e (s := withOutputs x y s) ok]
    rfl

theorem appendByte_withOutputs (b : Byte) (s : State) :
    appendByte (withOutputs x y s) b = withOutputs x y (appendByte s b) := by
  by_cases full : s.bufCnt.val + 1 = 64 <;> simp [appendByte, withOutputs, full]

theorem appendBytes_withOutputs (bs : List Byte) (s : State) :
    appendBytes bs (withOutputs x y s) = withOutputs x y (appendBytes bs s) := by
  induction bs generalizing s with
  | nil => rfl
  | cons b bs ih =>
    calc appendBytes bs (appendByte (withOutputs x y s) b)
      _ = appendBytes bs (withOutputs x y (appendByte s b)) := by rw [appendByte_withOutputs]
      _ = withOutputs x y (appendBytes bs (appendByte s b)) := ih _

theorem absorbBytes_withOutputs (n : Nat) (s : State) :
    absorbBytes n (withOutputs x y s) = withOutputs x y (absorbBytes n s) := by
  have sameLen : (withOutputs x y s).len = s.len := rfl
  have sameData : (withOutputs x y s).dataIn = s.dataIn := rfl
  unfold absorbBytes
  rw [sameLen, sameData, raiseError_withOutputs, appendBytes_withOutputs]
  split <;> rfl

theorem openMessage_withOutputs (s : State) : openMessage (withOutputs x y s) = withOutputs x y (openMessage s) := rfl

theorem closeMessage_withOutputs (s : State) : closeMessage (withOutputs x y s) = withOutputs x y (closeMessage s) := rfl

theorem messageGate_withOutputs {body : State → State}
    (h : body (withOutputs x y s) = withOutputs x y (body s)) :
    messageGate body (withOutputs x y s) = withOutputs x y (messageGate body s) := by
  unfold messageGate
  rw [h, raiseError_withOutputs, apply_ite (withOutputs x y), apply_ite (withOutputs x y)]
  rfl

theorem commandGate_withOutputs {body : State → State}
    (h : body (withOutputs x y s) = withOutputs x y (body s)) :
    commandGate body (withOutputs x y s) = withOutputs x y (commandGate body s) := by
  unfold commandGate
  rw [h, raiseError_withOutputs, apply_ite (withOutputs x y)]
  rfl

/-! ### The host's accesses -/

/-- Outside DONE a read of an output register is a draw, whatever word is stored there (40_commands R109, R110; log 5). -/
theorem receiveOutput_withOutputs (r : Reg) (v w : Word) (running : s.phase ≠ .done) :
    receiveOutput r v (withOutputs x y s) = withOutputs x y (receiveOutput r w s) := by
  unfold receiveOutput
  rw [if_neg running, if_neg (show (withOutputs x y s).phase ≠ .done from running)]
  rfl

/-- Outside DONE no instruction reads SEED or DIGEST. -/
theorem exec_withOutputs (i : Instr) (running : s.phase ≠ .done) :
    exec i (withOutputs x y s) = mapNext (withOutputs x y) (exec i s) := by
  cases i with
  | nop => exact congrArg _ (commandGate_withOutputs (s := s) (body := fun t => t) rfl)
  | init => exact congrArg _ (commandGate_withOutputs (openMessage_withOutputs s))
  | absorb cnt =>
    by_cases legal : countLegal cnt = true
    · rw [exec_absorb_of_legal legal, exec_absorb_of_legal legal]
      exact congrArg _ (commandGate_withOutputs (messageGate_withOutputs (absorbBytes_withOutputs _ s)))
    · rw [exec_absorb_of_illegal legal, exec_absorb_of_illegal legal]
      exact congrArg _ (commandGate_withOutputs (raiseError_withOutputs _ s))
  | final => exact congrArg _ (commandGate_withOutputs (messageGate_withOutputs (closeMessage_withOutputs s)))
  | readSeed k => exact congrArg _ (receiveOutput_withOutputs _ _ _ running)
  | readDigest k => exact congrArg _ (receiveOutput_withOutputs _ _ _ running)
  | accessReserved r a => cases a <;> rfl
  | writeDataIn | readDataIn | readStatus | readLen | readCmd | writeReadOnly => rfl

theorem hostAccess_withOutputs (a : BusAccess) (running : s.phase ≠ .done) :
    hostAccess a (withOutputs x y s) = mapNext (withOutputs x y) (hostAccess a s) := by
  have sameBase : base (withOutputs x y s) = base s := rfl
  rcases hostAccess_cases a s with ⟨i, decoded, runs⟩ | ⟨e, decoded, records⟩ | ⟨r, decoded, refuses⟩
  · rw [runs, hostAccess_of_instr (sameBase ▸ decoded), exec_withOutputs i running]
  · rw [records, hostAccess_of_illegal (sameBase ▸ decoded)]
    exact congrArg _ (commandGate_withOutputs (raiseError_withOutputs e s))
  · rw [refuses, hostAccess_of_refused (sameBase ▸ decoded)]
    rfl

/-- Whether a poll's read satisfies it depends on the value received only (30_encoding R79). -/
theorem hostPoll_withOutputs (addr : Nat) (mask value : Word) (rest : List HostOp) (running : s.phase ≠ .done) :
    hostPoll addr mask value rest (withOutputs x y s) = mapNext (withOutputs x y) (hostPoll addr mask value rest s) := by
  unfold hostPoll
  rw [hostAccess_withOutputs _ running]
  cases hostAccess (.read addr 4) s with
  | next t =>
    have same : pollSatisfied mask value (withOutputs x y t) = pollSatisfied mask value t := rfl
    simp only [mapNext, same]
    split <;> rfl
  | fault q => rfl
  | refused r => rfl

/-! ### The turns -/

/-- Outside DONE the host's turn does not read SEED or DIGEST; reset writes them anew (70_reset R230). -/
theorem hostTurn_withOutputs (running : s.phase ≠ .done) :
    hostTurn (withOutputs x y s) = mapNext (withOutputs x y) (hostTurn s) ∨
      ∃ t, hostTurn s = .next t ∧ hostTurn (withOutputs x y s) = .next t := by
  have sameHost : (withOutputs x y s).host = s.host := rfl
  unfold hostTurn
  rw [sameHost]
  match s.host with
  | [] => exact .inl rfl
  | .access a :: rest => exact .inl (hostAccess_withOutputs (s := { s with host := rest }) a running)
  | .poll addr mask value :: rest => exact .inl (hostPoll_withOutputs addr mask value rest running)
  | .reset :: rest => exact .inr ⟨_, rfl, rfl⟩

/-- The engine does not read SEED or DIGEST, and writes both anew when it reaches DONE (41 R140). -/
theorem engineStep_withOutputs (running : s.phase ≠ .done) :
    (engineStep (withOutputs x y s) = withOutputs x y (engineStep s) ∧ (engineStep s).phase ≠ .done) ∨
      engineStep (withOutputs x y s) = engineStep s := by
  have samePending : (withOutputs x y s).pending = s.pending := rfl
  have samePhase : (withOutputs x y s).phase = s.phase := rfl
  unfold engineStep
  rw [samePending, samePhase]
  cases s.pending with
  | nil => exact .inl ⟨rfl, running⟩
  | cons b rest =>
    dsimp only
    split
    · exact .inr rfl
    · exact .inl ⟨rfl, running⟩

/-- Only the engine's turn reaches DONE (10_state R23). -/
theorem phase_ne_done_of_host_turn {t : State} (turn : nextAgent s = .host) (running : s.phase ≠ .done)
    (h : step s = .next t) : t.phase ≠ .done := by
  intro done
  have changed : t.phase ≠ s.phase := by rw [done]; exact running.symm
  rcases phaseChangedOnlyByItsWriters s t h changed with
    ⟨-, idle, -⟩ | ⟨-, -, _, _, -, ⟨-, opened⟩ | ⟨-, -, closed⟩⟩ | ⟨engine, -⟩
  · rw [done] at idle; cases idle
  · rw [done] at opened; cases opened
  · rw [done] at closed; cases closed
  · rw [turn] at engine; cases engine

/-- Outside DONE a step does not read SEED or DIGEST: it keeps the words put there, or writes both anew and then has the
same next state, as it has whenever it reaches DONE. -/
theorem step_withOutputs (running : s.phase ≠ .done) :
    (step (withOutputs x y s) = mapNext (withOutputs x y) (step s) ∧ ∀ t, step s = .next t → t.phase ≠ .done) ∨
      ∃ t, step s = .next t ∧ step (withOutputs x y s) = .next t := by
  have sameAgent : nextAgent (withOutputs x y s) = nextAgent s := rfl
  cases turn : nextAgent s with
  | host =>
    have notDone (t : State) := phase_ne_done_of_host_turn (t := t) turn running
    rw [step_of_host_turn turn] at notDone ⊢
    rw [step_of_host_turn (sameAgent.trans turn)]
    exact (hostTurn_withOutputs (s := popTurn s) running).imp_left fun kept => ⟨kept, notDone⟩
  | engine =>
    rw [step_of_engine_turn turn, step_of_engine_turn (sameAgent.trans turn)]
    rcases engineStep_withOutputs (x := x) (y := y) (s := popTurn s) running with ⟨kept, notDone⟩ | written
    · exact .inl ⟨congrArg _ kept, fun t next => by cases next; exact notDone⟩
    · exact .inr ⟨_, rfl, congrArg _ written⟩

end

/-- Settles O33: outside DONE an instruction keeps other words in SEED and DIGEST, and a step keeps them or writes both. -/
theorem staleOutputsUnobservable : Obligations.StaleOutputsUnobservable := by
  intro s x y running
  refine ⟨fun i t h => ?_, fun t h => ?_, fun r h => ?_⟩
  · have other := exec_withOutputs (x := x) (y := y) i running
    rwa [h] at other
  · rcases step_withOutputs (x := x) (y := y) running with ⟨kept, notDone⟩ | ⟨u, next, written⟩
    · rw [h] at kept
      exact ⟨withOutputs x y t, kept, .inr rfl, fun done => absurd done (notDone t h)⟩
    · rw [h] at next
      cases next
      exact ⟨t, written, .inl rfl, fun _ => rfl⟩
  · rcases step_withOutputs (x := x) (y := y) running with ⟨kept, -⟩ | ⟨u, next, -⟩
    · rwa [h] at kept
    · rw [h] at next
      cases next

end Sys2Proof.Machine
end

section
/-! The key-derivation run (70_reset R239): what each step adds to the host's readings, and what stays as it is while the
host has no INIT and no reset left to do. -/

namespace Sys2Proof.Machine

/-! ### The readings -/

/-- `t` has the readings of `s`, or one more, which is the STATUS word of `s` if it is a reading of STATUS. -/
def AddsReading (s t : State) : Prop :=
  t.received = s.received ∨
    ∃ q : Reading, t.received = q :: s.received ∧ (q.reg = .readOnly .status → q.value = statusWord s)

section AddsReading
variable {s t : State}

theorem commandGate_received {body : State → State} (h : (body s).received = s.received) :
    (commandGate body s).received = s.received := by
  rcases commandGate_cases body s with ⟨-, he⟩ | ⟨-, he⟩ <;> rw [he]
  · exact raiseError_received ..
  · exact h

theorem messageGate_received {body : State → State} (h : (body s).received = s.received) :
    (messageGate body s).received = s.received := by
  rcases messageGate_cases body s with ⟨-, he⟩ | ⟨-, -, he⟩ | ⟨-, -, he⟩ <;> rw [he]
  · exact raiseError_received ..
  · exact h

theorem absorbBytes_received (n : Nat) (s : State) : (absorbBytes n s).received = s.received := by
  rcases absorbBytes_cases n s with ⟨-, he⟩ | ⟨-, he⟩ <;> rw [he]
  · exact raiseError_received ..
  · rw [countBytes_received, appendBytes_received]

theorem engineStep_received (s : State) : (engineStep s).received = s.received := by
  rcases engineStep_cases s with ⟨-, he⟩ | ⟨b, rest, -, -, he⟩ | ⟨b, -, -, he⟩ <;> rw [he] <;> rfl

/-- A read adds one reading, of STATUS the STATUS word and of an output register outside DONE a draw (00_scope R12). -/
theorem exec_readInstr_addsReading {r : Reg} (h : exec (readInstr r) s = .next t) : AddsReading s t := by
  by_cases stored : ReadsStored s r
  · rw [exec_readInstr_of_readsStored stored] at h
    cases h
    refine .inr ⟨_, rfl, fun status => ?_⟩
    obtain rfl : r = .readOnly .status := status
    rfl
  · rw [exec_readInstr_of_not_readsStored stored] at h
    cases h
    refine .inr ⟨_, rfl, fun status => absurd (.inr fun i => ?_) stored⟩
    obtain rfl : r = .readOnly .status := status
    exact ⟨nofun, nofun⟩

theorem exec_addsReading {i : Instr} (h : exec i s = .next t) : AddsReading s t := by
  cases i with
  | nop => cases h; exact .inl (commandGate_received rfl)
  | init => cases h; exact .inl (commandGate_received rfl)
  | absorb cnt =>
    by_cases legal : countLegal cnt = true
    · rw [exec_absorb_of_legal legal] at h
      cases h
      exact .inl (commandGate_received (messageGate_received (absorbBytes_received _ s)))
    · rw [exec_absorb_of_illegal legal] at h
      cases h
      exact .inl (commandGate_received (raiseError_received ..))
  | final => cases h; exact .inl (commandGate_received (messageGate_received rfl))
  | writeDataIn v => cases h; exact .inl rfl
  | readDataIn => exact exec_readInstr_addsReading (r := .dataIn) h
  | readStatus => exact exec_readInstr_addsReading (r := .readOnly .status) h
  | readLen half => exact exec_readInstr_addsReading (r := .readOnly (.len half)) h
  | readSeed k => exact exec_readInstr_addsReading (r := .readOnly (.seed k)) h
  | readDigest k => exact exec_readInstr_addsReading (r := .readOnly (.digest k)) h
  | readCmd => exact exec_readInstr_addsReading (r := .cmd) h
  | writeReadOnly r v => cases h; exact .inl rfl
  | accessReserved r a =>
    cases a with
    | read => exact exec_readInstr_addsReading (r := .reserved r) h
    | write v => cases h; exact .inl rfl

theorem hostAccess_addsReading {a : BusAccess} (h : hostAccess a s = .next t) : AddsReading s t := by
  rcases hostAccess_cases a s with ⟨i, -, runs⟩ | ⟨e, -, records⟩ | ⟨r, -, refuses⟩
  · exact exec_addsReading (runs ▸ h)
  · rw [records] at h
    cases h
    exact .inl (commandGate_received (raiseError_received ..))
  · rw [refuses] at h
    cases h

/-- A step adds at most one reading, and a reading of STATUS is of the state before the step (00_scope R12, R13). -/
theorem step_addsReading (h : step s = .next t) : AddsReading s t := by
  rcases step_next h with ⟨-, h⟩ | ⟨-, rfl⟩
  · rcases hostTurn_next h with ⟨-, rfl⟩ | ⟨a, rest, -, h⟩ | ⟨addr, mask, value, rest, -, h⟩ | ⟨rest, -, rfl⟩
    · exact .inl rfl
    · exact hostAccess_addsReading (s := { popTurn s with host := rest }) h
    · obtain ⟨u, read, goes⟩ := hostPoll_next h
      have added : AddsReading s u := hostAccess_addsReading (s := popTurn s) read
      rcases goes with ⟨-, rfl⟩ | ⟨-, rfl⟩ <;> exact added
    · exact .inl rfl
  · exact .inl (engineStep_received _)

/-- The host's record of its readings only grows (log 10). -/
theorem received_suffix_of_run {n : Nat} (run : reachesIn n s t) : s.received <:+ t.received := by
  refine reachesIn_keeps (P := fun u => s.received <:+ u.received) (fun u v h earlier => ?_) run List.suffix_rfl
  rcases step_addsReading h with same | ⟨q, more, -⟩
  · rwa [same]
  · rw [more]
    exact earlier.trans (List.suffix_cons ..)

end AddsReading

/-! ### The readings of a run -/

section
variable {start s t : State}

theorem readingsSince_of_append {new : List Reading} (h : s.received = new ++ start.received) :
    readingsSince start s = new := by
  simp [readingsSince, h]

theorem readingsSince_cons {q : Reading} (earlier : start.received <:+ s.received)
    (more : t.received = q :: s.received) : readingsSince start t = q :: readingsSince start s := by
  obtain ⟨new, old⟩ := earlier
  rw [readingsSince_of_append old.symm]
  exact readingsSince_of_append (by rw [more, ← old, List.cons_append])

/-- A run that has made no reading yet has not read STATUS (70_reset R239). -/
theorem lastStatus_of_no_reading (unread : s.received = start.received) :
    lastStatus (readingsSince start s) = none := by
  rw [readingsSince_of_append (new := []) unread]
  rfl

/-- So it has not ended. -/
theorem not_runEnded_of_no_reading (unread : s.received = start.received) : ¬ runEnded start s := by
  rintro ⟨-, -, v, last, -⟩
  rw [lastStatus_of_no_reading unread] at last
  cases last

/-- And it has not failed. -/
theorem not_protocolFault_of_no_reading (unread : s.received = start.received) : ¬ protocolFault start s := by
  rintro ⟨v, last, -⟩
  rw [lastStatus_of_no_reading unread] at last
  cases last

end

/-! ### No INIT and no reset left -/

/-- The operation opens a new message or resets the block, for a window at `b`. -/
def Restarts (b : Nat) : HostOp → Prop
  | .access a => decodeAccess b a = .instr .init
  | .poll _ _ _ => False
  | .reset => True

/-- The host has no such operation left to do. -/
def NoRestart (s : State) : Prop := ∀ op ∈ s.host, ¬ Restarts (base s) op

theorem not_restarts_issue {b : Nat} {i : Instr} (wf : wellFormed i = true) (other : i ≠ .init) :
    ¬ Restarts b (issue b i) := by
  intro restarts
  rw [issue, Restarts, decodeAfterEncode b i wf] at restarts
  cases restarts
  exact other rfl

section NoRestart
variable {s t : State}

theorem NoRestart.not_reset (free : NoRestart s) : ¬ ∃ rest, s.host = .reset :: rest := by
  rintro ⟨rest, program⟩
  exact free .reset (by simp [program]) trivial

theorem NoRestart.decoded_ne_init (free : NoRestart s) {a : BusAccess} {rest : List HostOp}
    (program : s.host = .access a :: rest) : decodeAccess (base s) a ≠ .instr .init :=
  free (.access a) (by simp [program])

theorem NoRestart.of_step (free : NoRestart s) (h : step s = .next t) : NoRestart t := by
  obtain ⟨window, progress⟩ := step_window_host h
  have sameBase : base t = base s := by rw [base, base, window]
  intro op member
  rw [sameBase]
  rcases progress with same | ⟨first, next⟩
  · exact free op (same ▸ member)
  · exact free op (next ▸ List.mem_cons_of_mem first member)

/-- Without INIT and reset a recorded error stays (60_exceptions R206). -/
theorem NoRestart.keeps_err (free : NoRestart s) (h : step s = .next t) (err : s.err = true) : t.err = true := by
  rcases onlyInitAndResetClearError s t err h with ⟨kept, -⟩ | ⟨-, -, -, reset | ⟨a, rest, program, init, -⟩⟩
  · exact kept
  · exact absurd reset free.not_reset
  · exact absurd init (free.decoded_ne_init program)

/-- Without INIT and reset DONE stays (10_state R23). -/
theorem NoRestart.keeps_done (free : NoRestart s) (h : step s = .next t) (done : s.phase = .done) : t.phase = .done := by
  by_contra left
  have changed : t.phase ≠ s.phase := done ▸ left
  rcases phaseChangedOnlyByItsWriters s t h changed with
    ⟨-, -, reset⟩ | ⟨-, -, a, rest, program, ⟨init, -⟩ | ⟨-, absorbing, -⟩⟩ | ⟨-, finalizing, -⟩
  · exact free.not_reset reset
  · exact free.decoded_ne_init program init
  · rw [done] at absorbing; cases absorbing
  · rw [done] at finalizing; cases finalizing

/-- Without reset SEED stays while the block is in DONE (10_state R31). -/
theorem NoRestart.keeps_seed (free : NoRestart s) (h : step s = .next t) (done : s.phase = .done) : t.seed = s.seed := by
  by_contra changed
  rcases (hashRegistersChangedOnlyByTheirWriters s t h).2 (.inl changed) with ⟨-, finalizing, -⟩ | ⟨-, reset⟩
  · rw [done] at finalizing; cases finalizing
  · exact free.not_reset reset

/-- So a run keeps a recorded error to its end. -/
theorem NoRestart.err_of_run (free : NoRestart s) {n : Nat} (run : reachesIn n s t) (err : s.err = true) :
    t.err = true := by
  obtain ⟨-, kept⟩ := reachesIn_keeps (P := fun u => NoRestart u ∧ u.err = true)
    (fun u v h ⟨free, err⟩ => ⟨free.of_step h, free.keeps_err h err⟩) run ⟨free, err⟩
  exact kept

/-- And it keeps what SEED holds in DONE. -/
theorem NoRestart.seed_of_run (free : NoRestart s) {n : Nat} (run : reachesIn n s t) (done : s.phase = .done) :
    t.seed = s.seed := by
  obtain ⟨-, -, kept⟩ := reachesIn_keeps (P := fun u => NoRestart u ∧ u.phase = .done ∧ u.seed = s.seed)
    (fun u v h ⟨free, done, kept⟩ => ⟨free.of_step h, free.keeps_done h done, (free.keeps_seed h done).trans kept⟩)
    run ⟨free, done, rfl⟩
  exact kept

end NoRestart

/-! ### The run behind its INIT -/

/-- A run from `start` is under way at `s`: no INIT and no reset is left, the readings made before it are still recorded,
and an error that its last STATUS read showed is still recorded too. -/
structure UnderWay (start s : State) : Prop where
  free : NoRestart s
  readings : start.received <:+ s.received
  recorded : protocolFault start s → s.err = true

/-- Bit 2 of STATUS is ERR (10_state R34). -/
theorem statusWord_getLsbD_two (s : State) : (statusWord s).getLsbD 2 = s.err := by
  rw [← BitVec.testBit_toNat, Nat.testBit_eq_decide_div_mod_eq, statusWord_toNat]
  have busyBound := (busy s).toNat_le
  have doneBound := (doneFlag s).toNat_le
  cases s.err <;> simp <;> omega

theorem UnderWay.of_step {start s t : State} (way : UnderWay start s) (h : step s = .next t) : UnderWay start t := by
  obtain ⟨free, readings, recorded⟩ := way
  have keep := free.keeps_err h
  rcases step_addsReading h with same | ⟨q, more, status⟩
  · refine ⟨free.of_step h, same ▸ readings, fun fault => keep (recorded ?_)⟩
    rwa [protocolFault, readingsSince, same] at fault
  · refine ⟨free.of_step h, more ▸ readings.trans (List.suffix_cons ..), ?_⟩
    rintro ⟨v, last, bit⟩
    rw [readingsSince_cons readings more, lastStatus] at last
    split at last
    next ofStatus =>
      cases last
      rw [status ofStatus, statusWord_getLsbD_two] at bit
      exact keep bit
    next => exact keep (recorded ⟨v, last, bit⟩)

/-- A run whose later end shows no error has not failed (70_reset R239). -/
theorem UnderWay.not_protocolFault_of_run {start s t : State} (way : UnderWay start s) {n : Nat}
    (run : reachesIn n s t) (ok : t.err = false) : ¬ protocolFault start s := by
  intro fault
  have err := way.free.err_of_run run (way.recorded fault)
  rw [ok] at err
  cases err

/-! ### KDF -/

section
variable {s : State} {m : List Byte}

theorem not_restarts_of_mem_waitOps (b : Nat) : ∀ op ∈ waitOps b, ¬ Restarts b op :=
  List.forall_mem_singleton.mpr not_false

/-- PUTs contain no INIT (30_encoding R81). -/
theorem not_restarts_of_mem_putOps {b k : Nat} {v : Word} (some : 1 ≤ k) (few : k ≤ 4) :
    ∀ op ∈ putOps b k v, ¬ Restarts b op := by
  have legal : wellFormed (.absorb (BitVec.ofNat 3 k)) = true :=
    (countLegal_iff _).mpr (by rw [BitVec.toNat_ofNat]; omega)
  have load : ¬ Restarts b (issue b (.writeDataIn v)) := not_restarts_issue rfl nofun
  have absorb : ¬ Restarts b (issue b (.absorb (BitVec.ofNat 3 k))) := not_restarts_issue legal nofun
  have wait : ∀ op ∈ waitOps b, ¬ Restarts b op := not_restarts_of_mem_waitOps b
  simp only [putOps, loadOps, List.forall_mem_append, List.forall_mem_singleton]
  exact ⟨⟨load, absorb⟩, wait⟩

/-- Behind its INIT KDF has no INIT and no reset (30_encoding R81). -/
theorem kdfOps_eq_init_cons (b : Nat) (m : List Byte) :
    ∃ rest, kdfOps b m = issue b .init :: rest ∧ ∀ op ∈ rest, ¬ Restarts b op := by
  refine ⟨((kdfGroups m).map fun g => putOps b g.1 g.2).flatten ++
    (issue b .final :: (waitOps b ++ issue b .readStatus :: readSeedsOps b)), by simp [kdfOps_eq_stream], ?_⟩
  have final : ¬ Restarts b (issue b .final) := not_restarts_issue rfl nofun
  have status : ¬ Restarts b (issue b .readStatus) := not_restarts_issue rfl nofun
  have seeds : ∀ op ∈ readSeedsOps b, ¬ Restarts b op := by
    simp only [readSeedsOps, List.forall_mem_map]
    exact fun i _ => not_restarts_issue rfl nofun
  have puts : ∀ op ∈ ((kdfGroups m).map fun g => putOps b g.1 g.2).flatten, ¬ Restarts b op := by
    simp only [List.forall_mem_flatten, List.forall_mem_map]
    intro g member
    obtain ⟨some, few⟩ := kdfGroups_counts m g member
    exact not_restarts_of_mem_putOps some few
  simp only [List.forall_mem_append, List.forall_mem_cons]
  exact ⟨puts, final, not_restarts_of_mem_waitOps b, status, seeds⟩

/-- A KDF run starts at its INIT, behind which it is under way with no reading made (70_reset R239). -/
theorem kdf_underWay_after_init (idle : busy s = false) (program : s.host = kdfOps (base s) m) :
    startsRun s ∧ ∃ n t, reachesIn n s t ∧ t.received = s.received ∧ UnderWay s t := by
  obtain ⟨rest, ops, free⟩ := kdfOps_eq_init_cons (base s) m
  rw [ops] at program
  refine ⟨.inr ⟨idle, _, rest, program, decodeAfterEncode (base s) .init rfl⟩, ?_⟩
  have nothing : s.pending = [] := busy_eq_false.mp idle
  obtain ⟨n, turns, run⟩ := reaches_exec nothing program rfl
  exact ⟨n, _, run _ (exec_init_accepted nothing), rfl, free, List.suffix_rfl,
    fun fault => absurd fault (not_protocolFault_of_no_reading rfl)⟩

/-- After KDF's read of STATUS the run has ended, at that state or earlier (70_reset R239). -/
theorem kdf_reaches_ended (idle : busy s = false) (fits : m.length ≤ Config.maxMsgBytes)
    (program : s.host = kdfOps (base s) m) :
    ∃ n t rest, reachesIn n s t ∧ Delivered (base s) m rest t ∧ runEnded s t := by
  rw [kdfOps_eq_stream] at program
  obtain ⟨n, u, streams, delivered⟩ := reaches_delivered_of_stream (busy_eq_false.mp idle) (kdfGroups_counts m)
    (kdfGroups_bytes m).symm fits program
  obtain ⟨j, t, read, there, reading⟩ := Delivered.reaches_read (r := .readOnly .status) delivered
  refine ⟨n + j, t, _, reachesIn_trans streams read, there, there.phase, there.nothing, 0x00000032#32, ?_, by decide⟩
  have word : storedWord t (.readOnly .status) = 0x00000032#32 := there.statusWord_eq
  rw [readingsSince_cons (received_suffix_of_run streams) reading, word]
  rfl

/-- No state up to one with no new reading has ended the run. -/
theorem not_runEnded_of_run {n : Nat} {start s t : State} (earlier : start.received <:+ s.received)
    (run : reachesIn n s t) (unread : t.received = start.received) : ¬ runEnded start s :=
  not_runEnded_of_no_reading (earlier.eq_of_length_le (unread ▸ (received_suffix_of_run run).length_le)).symm

end

/-- Settles O52: the first ended state lies between the INIT, before which nothing is read, and the read of STATUS, where
SEED holds the seed words and no error is recorded; from it on both stay as they are. -/
theorem kdfRunEndsWithoutFault : Obligations.KdfRunEndsWithoutFault := by
  classical
  intro s m idle fits program
  obtain ⟨starts, i, opened, opens, noReading, atOpened⟩ := kdf_underWay_after_init idle program
  obtain ⟨n, last, rest, delivers, delivered, lastEnded⟩ := kdf_reaches_ended idle fits program
  have ends : ∃ k u, reachesIn k s u ∧ runEnded s u := ⟨n, last, delivers, lastEnded⟩
  obtain ⟨k, ⟨t, run, ended⟩, first⟩ := Nat.findX ends
  have beforeLast : k ≤ n := Nat.not_lt.mp fun later => first n later ⟨last, delivers, lastEnded⟩
  have afterInit : i ≤ k := by
    by_contra before
    exact not_runEnded_of_run (received_suffix_of_run run) (reachesIn_split run opens (by omega)) noReading ended
  have way : UnderWay s t :=
    reachesIn_keeps (fun _ _ h way => way.of_step h) (reachesIn_split opens run afterInit) atOpened
  have later := reachesIn_split run delivers beforeLast
  have done : t.phase = .done := ended.1
  have seed : t.seed = seedWords (sha256 m) := (way.free.seed_of_run later done).symm.trans delivered.digest.seed
  refine ⟨k, t, t.seed, ⟨starts, run, ended, fun j u before run' ended' => first j before ⟨u, run', ended'⟩⟩,
    way.not_protocolFault_of_run later delivered.err, seed, runResult_of_done done, ?_⟩
  rw [seed, seedWords_map_toInt32]

end Sys2Proof.Machine
end

section
/-! A command word placed for the next step (log 1), and the ABSORB that is rejected or dropped (40_commands R103,
60_exceptions R203). -/

namespace Sys2Proof

/-- The decoder reads from a table row's bits what the command word decodes to (30_encoding R70; log 15). -/
theorem decodeCommand_of_decodeTableWord {nbits w : Nat} {i : Instr} (read : decodeTableWord nbits w = some i) :
    decodeCommand (tableWord nbits w) = .instr i := by
  rw [decodeTableWord, tableAccess, decodeAccess_write_regOffset] at read
  split at read
  · cases read
  · split at read
    next j word => cases read; exact word
    next => cases read
    next => cases read

namespace Machine

/-! ### The placed word -/

/-- The placed access takes the coming turn and is then gone, so the next step is that access at the state it was placed
in (log 1). -/
theorem step_issueNext (a : BusAccess) (s : State) : step (issueNext a s) = hostAccess a s :=
  step_of_access (s := issueNext a s) rfl rfl

/-- Settles O9: the placed access is a write to CMD, which runs what its word decodes to. -/
theorem placedWordRunsNext : Obligations.PlacedWordRunsNext := by
  intro s nbits w i read
  rw [State.withFetchWord, step_issueNext]
  exact hostAccess_write_cmd_of_instr (decodeCommand_of_decodeTableWord read)

/-! ### The ABSORB that is turned away -/

/-- While BUSY = 1 every ABSORB is a BUSY_VIOLATION, whatever its count (40_commands R100). -/
theorem exec_absorb_of_busy (cnt : BitVec 3) {s : State} (waiting : busy s = true) :
    exec (.absorb cnt) s = .next (raiseError .busyViolation s) := by
  by_cases legal : countLegal cnt = true
  · rw [exec_absorb_of_legal legal, commandGate_of_busy _ waiting]
  · rw [exec_absorb_of_illegal legal, commandGate_of_busy _ waiting]

/-- An ABSORB whose bytes take LEN past its limit appends none of them (40_commands R103). -/
theorem absorbBytes_of_overflow {n : Nat} {s : State} (overflows : Config.maxMsgBytes < s.len.toNat + n) :
    absorbBytes n s = raiseError .lengthOverflow s :=
  if_pos overflows

/-- Settles O14: the command gate, the count, the gate of ABSORB and FINAL and the length check, in that order. -/
theorem absorbRejectedOrDropped : Obligations.AbsorbRejectedOrDropped := by
  intro cnt s
  have gated (idle : busy s = false) (some : 1 ≤ cnt.toNat) (few : cnt.toNat ≤ 4) :
      exec (.absorb cnt) s = .next (messageGate (absorbBytes cnt.toNat) s) :=
    exec_absorb_of_idle (busy_eq_false.mp idle) ((countLegal_iff cnt).mpr ⟨some, few⟩)
  refine ⟨exec_absorb_of_busy cnt, fun idle ill => ?_, fun idle some few err => ?_,
    fun idle some few ok other => ?_, fun idle some few ok phase overflows => ?_⟩
  · rw [exec_absorb_of_illegal (mt (countLegal_iff cnt).mp ill), commandGate_of_idle _ (busy_eq_false.mp idle)]
    rfl
  · rw [gated idle some few, messageGate_of_err _ err]
  · rw [gated idle some few, messageGate_of_no_message _ ok other, raiseError_of_no_err _ ok]
    rfl
  · rw [gated idle some few, messageGate_of_open _ ok phase, absorbBytes_of_overflow overflows,
      raiseError_of_no_err _ ok]
    rfl

end Machine
end Sys2Proof
end
